-- ==== Sys2Proof/Word.lean ====
section
/-! DEFINITION. The words of FDX: bytes, the 232-bit frame bus and the raw 24-bit pattern of a fixed-point field
(00_scope.md R10, R11; 10_state.md R22). -/

namespace Sys2Proof

/-- One byte of a frame, an unsigned integer 0..255 (R11). -/
abbrev Byte := BitVec 8

/-- The 24-bit pattern of a signed fixed-point field (30_encoding.md R66). -/
abbrev Word24 := BitVec 24

/-- The bits of the frame bus `in_frame` and of `out_raw`: 29 lanes of 8 bits (R22, R24). -/
abbrev FrameBits := BitVec 232

end Sys2Proof
end

