-- ==== Sys2Proof/Config.lean ====
section
/-! DEFINITION. The elaboration-time parameters of FDX (00_scope.md R9) and the free values of its input ports
(10_state.md R22). -/

namespace Sys2Proof

/-- One build of FDX: the parameters of R9, each fixed when an instance is built (R27, R193). -/
structure Config where
  /-- `FRAME_LEN`, bytes per frame. -/
  frameLen : Nat
  /-- `SYNC_BYTE`, the message_type that is recognised; every byte is legal. -/
  syncByte : Byte
  /-- `FRAC_ROT`, fractional bits of pan, tilt and roll. -/
  fracRot : Nat
  /-- `FRAC_POS`, fractional bits of pos_x, pos_y and pos_z. -/
  fracPos : Nat
  /-- `CSUM_INIT`, the checksum accumulator's start value; every byte is legal. -/
  csumInit : Byte
  /-- `CSUM_MASK`, the checksum accumulator's mask. -/
  csumMask : Byte
  /-- `OUT_W`, the width of each sign-extended fixed-point output. -/
  outW : Nat
  /-- `LEN_W`, the width of the `in_len` port. -/
  lenW : Nat
  deriving DecidableEq, Repr

/-- FDX as specified: every parameter at its default (R9). -/
def Config.fdx : Config where
  frameLen := 29
  syncByte := 0xD1
  fracRot := 15
  fracPos := 6
  csumInit := 0x40
  csumMask := 0x03
  outW := 32
  lenW := 8

/-- FDX built for the full-byte checksum (42_checksum.md R134, R136), every other parameter at its default. -/
def Config.fullByte : Config := { Config.fdx with csumMask := 0xFF }

/-- The column "legal values" of R9's table; a build outside it "has no behaviour" (R9). -/
def Config.legal (c : Config) : Bool :=
  decide (c.frameLen = 29 ∧ c.fracRot ≤ 23 ∧ c.fracPos ≤ 23 ∧ (c.csumMask = 0x03 ∨ c.csumMask = 0xFF) ∧
    (24 ≤ c.outW ∧ c.outW ≤ 64) ∧ (5 ≤ c.lenW ∧ c.lenW ≤ 16))

/-- FREE VALUE (log 2): what the framer drives on `rst` at edge `n`, past the schedule that State lists. -/
opaque Config.freeRst : Nat → Bool

/-- FREE VALUE (log 2): what the framer drives on `in_valid` at edge `n`, past the schedule. -/
opaque Config.freeInValid : Nat → Bool

/-- FREE VALUE (log 2): what the framer drives on `in_len` at edge `n`, past the schedule. -/
opaque Config.freeInLen (lenW : Nat) : Nat → BitVec lenW

/-- FREE VALUE (log 2): what the framer drives on `in_frame` at edge `n`, past the schedule. -/
opaque Config.freeInFrame : Nat → FrameBits

end Sys2Proof
end

