-- ==== Sys2Proof/Syntax.lean ====
section
/-! DEFINITION. The operations of FDX, one constructor per row of spec/opcode_table.json (30_encoding.md R74), and the
frame each of them is performed on (10_state.md R21). -/

namespace Sys2Proof

/-- The 29 bytes `B[0]`..`B[28]` of a frame, the first received byte first (00_scope.md R10). -/
abbrev Frame := Vector Byte 29

/-- What FDX accepts in one acceptance cycle: the number of bytes the framer delivered, as `in_len` gives it, and the
29 lanes of `in_frame` (10_state.md R22). It is the operand of every operation (R21). -/
structure Delivery where
  /-- The value of `in_len`. -/
  len : Nat
  /-- The bytes `B[0]`..`B[28]`. -/
  frame : Frame
  deriving DecidableEq, Repr

/-- The rows of the opcode table, in its order: the frame operation, the three checks, the twelve field
operations (R74, 41_field_extract.md R100). -/
inductive Instr where
  | decodeD1 (d : Delivery)
  | syncCheck (d : Delivery)
  | lenCheck (d : Delivery)
  | csumCheck (d : Delivery)
  | cameraId (d : Delivery)
  | pan (d : Delivery)
  | tilt (d : Delivery)
  | roll (d : Delivery)
  | posX (d : Delivery)
  | posY (d : Delivery)
  | posZ (d : Delivery)
  | zoom (d : Delivery)
  | focus (d : Delivery)
  | spare (d : Delivery)
  | checksum (d : Delivery)
  | raw (d : Delivery)
  deriving DecidableEq, Repr

/-- The frame an operation is performed on. -/
def Instr.delivery : Instr → Delivery
  | .decodeD1 d => d
  | .syncCheck d => d
  | .lenCheck d => d
  | .csumCheck d => d
  | .cameraId d => d
  | .pan d => d
  | .tilt d => d
  | .roll d => d
  | .posX d => d
  | .posY d => d
  | .posZ d => d
  | .zoom d => d
  | .focus d => d
  | .spare d => d
  | .checksum d => d
  | .raw d => d

/-- The checksum operand of the field-frame notation: `cs=<u8|auto>` (30_encoding.md R75, R76). -/
inductive ChecksumOperand where
  | given (b : Byte)
  | auto
  deriving DecidableEq, Repr

/-- The field-frame notation of R75: `D1 cam= pan= … tail=`, with the raw patterns of the fields of R66. -/
structure FieldFrame where
  cam : Byte := 0
  pan : Word24 := 0
  tilt : Word24 := 0
  roll : Word24 := 0
  x : Word24 := 0
  y : Word24 := 0
  z : Word24 := 0
  zoom : BitVec 16 := 0
  focus : Byte := 0
  spare : BitVec 16 := 0
  cs : ChecksumOperand := .given 0
  tail : Word24 := 0
  deriving DecidableEq, Repr

end Sys2Proof
end

