-- ==== Sys2Proof/WellFormed.lean ====
section
/-! DEFINITION. Which operations are well formed for a build: the length fits the `in_len` port, and the frame is one
that the operation's row of the opcode table selects (10_state.md R22; 30_encoding.md R70, R74). -/

namespace Sys2Proof

/-- `in_len` is `LEN_W` bits wide; a longer delivery arrives saturated (60_exceptions.md R181). -/
def Delivery.lenFits (c : Config) (d : Delivery) : Bool := decide (d.len < 2 ^ c.lenW)

/-- A frame with no byte has no opcode (40_recognition.md R93). -/
def Delivery.hasOpcode (d : Delivery) : Bool := decide (1 ≤ d.len)

/-- The leading byte is the recognised one (R70). -/
def Delivery.syncMatches (c : Config) (d : Delivery) : Bool := decide (d.frame[0] = c.syncByte)

/-- The checks every row but SYNC_CHECK's makes: "selected by the same `B[0]` match as DECODE_D1" (R74). -/
def Delivery.selectsD1 (c : Config) (d : Delivery) : Bool :=
  d.lenFits c && d.hasOpcode && d.syncMatches c

/-- Well-formedness of an operation for the build `c`: SYNC_CHECK "applies to every frame" (R74), every other row to the
frames with the recognised leading byte. -/
def Instr.wellFormed (c : Config) : Instr → Bool
  | .syncCheck d => d.lenFits c
  | .decodeD1 d => d.selectsD1 c
  | .lenCheck d => d.selectsD1 c
  | .csumCheck d => d.selectsD1 c
  | .cameraId d => d.selectsD1 c
  | .pan d => d.selectsD1 c
  | .tilt d => d.selectsD1 c
  | .roll d => d.selectsD1 c
  | .posX d => d.selectsD1 c
  | .posY d => d.selectsD1 c
  | .posZ d => d.selectsD1 c
  | .zoom d => d.selectsD1 c
  | .focus d => d.selectsD1 c
  | .spare d => d.selectsD1 c
  | .checksum d => d.selectsD1 c
  | .raw d => d.selectsD1 c

end Sys2Proof
end

