-- ==== Sys2Proof/Decode.lean ====
section
/-! DEFINITION. The lane map of the frame bus (20_memory.md R52), the decoder and the encoder of frames
(30_encoding.md R65, R66, R70, R74), and the assembler of the field-frame notation (R75, R76). The decoder rejects
nothing: "FDX has no reserved, hint or custom opcode values" (R71; log 6). -/

namespace Sys2Proof

/-! ## The lane map -/

/-- `in_frame[8i+7:8i]` (R52). -/
def laneByte (w : FrameBits) (i : Nat) : Byte := w.extractLsb' (8 * i) 8

/-- The frame on the bus: `B[i] = in_frame[8i+7:8i]` for 0 ≤ i ≤ 28 (R52). -/
def unpackFrame (w : FrameBits) : Frame := Vector.ofFn fun i => laneByte w i.val

/-- The number whose base-256 digits are the bytes, the first byte the least significant digit. -/
def lanesToNat : List Byte → Nat
  | [] => 0
  | b :: bs => b.toNat + 256 * lanesToNat bs

/-- The bus word that carries a frame: `B[0]` on bits 7:0 and `B[28]` on bits 231:224 (R52). -/
def packFrame (f : Frame) : FrameBits := BitVec.ofNat 232 (lanesToNat f.toList)

/-! ## The opcode table -/

/-- One row of spec/opcode_table.json: its match and mask on `B[0]`, and the operation it names (R74). -/
structure OpcodeRow where
  mask : Byte
  pattern : Byte
  make : Delivery → Instr

/-- The row's match: `B[0] & mask = match` (R70, R74). -/
def OpcodeRow.selects (r : OpcodeRow) (b0 : Byte) : Bool := b0 &&& r.mask == r.pattern

/-- The opcode table for the build `c`, in its order; the match of every row but SYNC_CHECK's is the parameter
`SYNC_BYTE`. -/
def opcodeRows (c : Config) : List OpcodeRow :=
  [⟨0xFF, c.syncByte, .decodeD1⟩, ⟨0x00, 0x00, .syncCheck⟩] ++
    [Instr.lenCheck, .csumCheck, .cameraId, .pan, .tilt, .roll, .posX, .posY, .posZ, .zoom, .focus, .spare,
      .checksum, .raw].map fun mk => ⟨0xFF, c.syncByte, mk⟩

/-- The operations that the table's rows select for a frame with at least one byte (R74). -/
def selectedOps (c : Config) (d : Delivery) : List Instr :=
  ((opcodeRows c).filter fun r => r.selects d.frame[0]).map fun r => r.make d

/-! ## Decoding and encoding -/

/-- The operation that a delivery selects: DECODE_D1 where the leading byte is there and is `SYNC_BYTE` (R70), and
SYNC_CHECK, the one row that applies to every frame, where it is not (R71, R74, 40_recognition.md R91, R93). -/
def decodeDelivery (c : Config) (d : Delivery) : Instr :=
  if 1 ≤ d.len ∧ d.frame[0] &&& 0xFF = c.syncByte then .decodeD1 d else .syncCheck d

/-- The operation that the values on `in_len` and `in_frame` select. -/
def decode (c : Config) (len : Nat) (w : FrameBits) : Instr := decodeDelivery c ⟨len, unpackFrame w⟩

/-- The values that present an operation's frame: `in_len` and `in_frame`. -/
def encode (i : Instr) : Nat × FrameBits := (i.delivery.len, packFrame i.delivery.frame)

/-- The host's question: what the decoder of FDX as specified reads from a frame of full length whose bits are `w`, bit
0 of `B[0]` first and every bit past `nbits` zero. The length is no part of the frame's bits (R65). -/
def decodeTableWord (nbits w : Nat) : Option Instr :=
  some (decode Config.fdx 29 (BitVec.ofNat 232 (w % 2 ^ nbits)))

/-! ## The assembler of test frames -/

/-- `S`, the sum of a frame's bytes (42_checksum.md R132). -/
def byteSum (f : Frame) : Nat := (f.toList.map BitVec.toNat).sum

/-- The high, middle and low byte of a 24-bit pattern, most significant first (R51, R121). -/
def highByte (u : Word24) : Byte := u.extractLsb' 16 8
/-- See `highByte`. -/
def midByte (u : Word24) : Byte := u.extractLsb' 8 8
/-- See `highByte`. -/
def lowByte (u : Word24) : Byte := u.extractLsb' 0 8

/-- The field map of FRAME29 (R66) with `b` at offset 25. -/
def FieldFrame.layout (c : Config) (a : FieldFrame) (b : Byte) : Frame :=
  #v[c.syncByte, a.cam,
    highByte a.pan, midByte a.pan, lowByte a.pan,
    highByte a.tilt, midByte a.tilt, lowByte a.tilt,
    highByte a.roll, midByte a.roll, lowByte a.roll,
    highByte a.x, midByte a.x, lowByte a.x,
    highByte a.y, midByte a.y, lowByte a.y,
    highByte a.z, midByte a.z, lowByte a.z,
    a.zoom.extractLsb' 8 8, a.zoom.extractLsb' 0 8,
    a.focus,
    a.spare.extractLsb' 8 8, a.spare.extractLsb' 0 8,
    b,
    highByte a.tail, midByte a.tail, lowByte a.tail]

/-- `cs=auto`: `(CSUM_INIT - sum of B[i] for i ≠ 25) mod 256` (R76, 42_checksum.md R139). FDX never computes it. -/
def autoChecksum (c : Config) (f : Frame) : Byte :=
  BitVec.ofInt 8 ((c.csumInit.toNat : Int) - ((byteSum f : Int) - (f[25].toNat : Int)))

/-- The frame that the field-frame notation means (R75). -/
def FieldFrame.assemble (c : Config) (a : FieldFrame) : Frame :=
  match a.cs with
  | .given b => a.layout c b
  | .auto => a.layout c (autoChecksum c (a.layout c 0))

end Sys2Proof
end

