-- ==== Sys2Proof/Machine/State.lean ====
section
/-! DEFINITION. The state of FDX: the output register set of 10_state.md R24, or no value before the first reset edge
(R32, R34), beside the two arguments of the step that the host's form puts here: the build (00_scope.md R9, log 1) and
the values on the input ports (10_state.md R22, log 2). -/

namespace Sys2Proof.Machine

/-- The outcome of a frame, as `out_status` reports it (10_state.md R25). -/
inductive Status where
  | valid
  | notRecognized
  | badLength
  | checksumInvalid
  deriving DecidableEq, Repr

/-- The data registers of R24, `w` being `OUT_W`: the fields of DECODE_D1's result (43_frame_decode.md R150). -/
structure Fields (w : Nat) where
  /-- `out_camera_id` -/
  cameraId : BitVec 8
  /-- `out_pan` -/
  pan : BitVec w
  /-- `out_tilt` -/
  tilt : BitVec w
  /-- `out_roll` -/
  roll : BitVec w
  /-- `out_pos_x` -/
  posX : BitVec w
  /-- `out_pos_y` -/
  posY : BitVec w
  /-- `out_pos_z` -/
  posZ : BitVec w
  /-- `out_zoom` -/
  zoom : BitVec 16
  /-- `out_focus` -/
  focus : BitVec 8
  /-- `out_spare` -/
  spare : BitVec 16
  /-- `out_checksum` -/
  checksum : BitVec 8
  /-- `out_raw` -/
  raw : FrameBits
  deriving DecidableEq, Repr

/-- `ZERO_FIELDS`: every field and `raw` all-zero bits (43_frame_decode.md R150, R152). -/
def Fields.zero (w : Nat) : Fields w where
  cameraId := 0
  pan := 0
  tilt := 0
  roll := 0
  posX := 0
  posY := 0
  posZ := 0
  zoom := 0
  focus := 0
  spare := 0
  checksum := 0
  raw := 0

/-- The output register set (R24, R34). -/
structure Regs (w : Nat) extends Fields w where
  /-- `out_valid` -/
  valid : Bool
  /-- `out_status` -/
  status : Status
  deriving DecidableEq, Repr

/-- The column "reset value" of R24 (70_reset_and_hazards.md R190). -/
def Regs.reset (w : Nat) : Regs w where
  toFields := Fields.zero w
  valid := false
  status := .notRecognized

/-- The values that the input ports carry at one rising edge (R22). -/
structure PortSample (lenW : Nat) where
  /-- `rst` -/
  rst : Bool
  /-- `in_valid` -/
  inValid : Bool
  /-- `in_len` -/
  inLen : BitVec lenW
  /-- `in_frame` -/
  inFrame : FrameBits
  deriving DecidableEq, Repr

/-- Why the model stops with a fault. No step of FDX faults (60_exceptions.md R172). -/
inductive Fault where
  /-- Raised by a read of an output port (`readPort`, `takeRecord`) before the first reset edge, when the registers
  hold no value (10_state.md R32). Safe: the hardware would show some value, the model gives none. -/
  | portHoldsNoValue
  deriving DecidableEq, Repr

/-- Why a step has no meaning. -/
inductive Refusal where
  /-- Raised by an arm of `exec` whose operation has no meaning yet. Safe. No arm raises it. -/
  | notModelled (mnemonic : String)
  /-- Raised by every operation and every step of a build with a parameter outside its legal values: "refused at
  elaboration. It has no behaviour" (00_scope.md R9). Safe: there is no such hardware. -/
  | illegalBuild
  deriving DecidableEq, Repr

/-- The state between two rising edges. -/
structure State where
  /-- The model's own: the build, which no step writes (R9, R193; log 1). -/
  cfg : Config
  /-- The model's own: the port samples of the coming edges, the next one first (R22; log 2). -/
  inputs : List (PortSample cfg.lenW)
  /-- The model's own: how many edges have been taken; it only numbers the free values (R21, R22; log 2). -/
  cycle : Nat
  /-- The output registers; `none` is "no value", before the first reset edge (R32, R34; log 3). -/
  regs : Option (Regs cfg.outW)
  deriving DecidableEq, Repr

/-- FDX as specified, right after a reset edge: every register at its reset value (R24, R190). -/
def State.reset : State where
  cfg := Config.fdx
  inputs := []
  cycle := 0
  regs := some (Regs.reset Config.fdx.outW)

/-- FDX built with the parameters `c`, after power-up and before the first reset edge (R32, R192), its framer about to
drive `inputs`. -/
def State.powerUp (c : Config) (inputs : List (PortSample c.lenW)) : State where
  cfg := c
  inputs := inputs
  cycle := 0
  regs := none

end Sys2Proof.Machine
end

