-- ==== Sys2Proof/Machine/Operands.lean ====
section
/-! DEFINITION. The operand forms of FDX: how a field's value is assembled from frame bytes (20_memory.md R51;
30_encoding.md R69; 41_field_extract.md R101, R106, R107), what number it stands for (R102), and the encoder of R121. -/

namespace Sys2Proof.Machine

/-! ## Assembly -/

/-- `uint_(8n)` of a byte sequence: the byte at the lowest offset is the most significant (20_memory.md R51). -/
def uintBytes : List Byte → Nat := List.foldl (fun acc b => acc * 256 + b.toNat) 0

/-- `uint_16(b0, b1)`: `b0` is the most significant (41_field_extract.md R107). -/
def uint16 (b0 b1 : Byte) : BitVec 16 := b0 ++ b1

/-- `uint_24(b0, b1, b2)`: `b0` is the most significant (00_scope.md R12). -/
def uint24 (b0 b1 b2 : Byte) : Word24 := b0 ++ b1 ++ b2

/-- `sint_24(u)`: `u` if `u < 2^23`, else `u - 2^24` (00_scope.md R12). -/
def sint24 (u : Word24) : Int := if u.toNat < 2 ^ 23 then u.toNat else (u.toNat : Int) - 2 ^ 24

/-- `sext_N(u)`: N-24 copies of `u[23]` above `u[23:0]` (00_scope.md R12). -/
def sext24 (w : Nat) (u : Word24) : BitVec w := u.signExtend w

/-- EXT_SFIX24(b0, b1, b2; F) into an output register of `w` bits (41_field_extract.md R101). `_F` places the binary
point and changes no bit (R122). -/
def extSfix24 (w : Nat) (b0 b1 b2 : Byte) (_F : Nat) : BitVec w := sext24 w (uint24 b0 b1 b2)

/-- EXT_U8(b) (41_field_extract.md R106). -/
def extU8 (b : Byte) : BitVec 8 := b

/-- EXT_U16(b0, b1) (41_field_extract.md R107). -/
def extU16 (b0 b1 : Byte) : BitVec 16 := uint16 b0 b1

/-- The fields of DECODE_D1's VALID result (43_frame_decode.md R150, with 41_field_extract.md R108 to R119). -/
def extractFields (c : Config) (f : Frame) : Fields c.outW where
  cameraId := extU8 f[1]
  pan := extSfix24 c.outW f[2] f[3] f[4] c.fracRot
  tilt := extSfix24 c.outW f[5] f[6] f[7] c.fracRot
  roll := extSfix24 c.outW f[8] f[9] f[10] c.fracRot
  posX := extSfix24 c.outW f[11] f[12] f[13] c.fracPos
  posY := extSfix24 c.outW f[14] f[15] f[16] c.fracPos
  posZ := extSfix24 c.outW f[17] f[18] f[19] c.fracPos
  zoom := extU16 f[20] f[21]
  focus := extU8 f[22]
  spare := extU16 f[23] f[24]
  checksum := extU8 f[25]
  raw := packFrame f

/-! ## The number a fixed-point register stands for -/

/-- `val = s / 2^F`, an exact rational, `s` being the register's signed value (00_scope.md R13; 41_field_extract.md
R102). FDX computes no val: it is how a consumer reads the register. -/
def fixVal (F : Nat) {w : Nat} (q : BitVec w) : Rat := (q.toInt : Rat) / (2 ^ F : Nat)

/-- `ENC_SFIX24(val; F) = (val × 2^F) mod 2^24`, for a val whose `val × 2^F` is an integer in `[-2^23, 2^23-1]`: the
`#v` literal of the field-frame notation (30_encoding.md R75; 41_field_extract.md R121). -/
def encSfix24 (F : Nat) (v : Rat) : Option Word24 :=
  let m := v * (2 ^ F : Nat)
  if m.den = 1 ∧ -2 ^ 23 ≤ m.num ∧ m.num ≤ 2 ^ 23 - 1 then some (BitVec.ofInt 24 m.num) else none

/-- A number is exactly representable in a binary floating-point format of `p` significand bits whose least
significand bit weighs between `2^eMin` and `2^eMax` (41_field_extract.md R103). -/
def RepresentableIn (p : Nat) (eMin eMax : Int) (v : Rat) : Prop :=
  ∃ m e : Int, m.natAbs < 2 ^ p ∧ eMin ≤ e ∧ e ≤ eMax ∧ v = m * (2 : Rat) ^ e

/-- IEEE 754 binary32: 24 significand bits, last-bit weights `2^-149` to `2^104`. -/
abbrev Binary32 : Rat → Prop := RepresentableIn 24 (-149) 104

/-- IEEE 754 binary64: 53 significand bits, last-bit weights `2^-1074` to `2^971`. -/
abbrev Binary64 : Rat → Prop := RepresentableIn 53 (-1074) 971

end Sys2Proof.Machine
end

