-- ==== Sys2Proof/Machine/Flags.lean ====
section
/-! DEFINITION. The flags of FDX: the two gates (40_recognition.md R91, R92), the checksum check (42_checksum.md R130),
and the outcome of a frame with its code (10_state.md R25; 60_exceptions.md R170, R173). -/

namespace Sys2Proof.Machine

/-- The two bits of `out_status` (10_state.md R25). -/
def Status.code : Status → BitVec 2
  | .valid => 0b00
  | .notRecognized => 0b01
  | .badLength => 0b10
  | .checksumInvalid => 0b11

/-- A consumer that counts errors counts these; NOT_RECOGNIZED "is not an error" (60_exceptions.md R182). -/
def Status.isError : Status → Bool
  | .valid => false
  | .notRecognized => false
  | .badLength => true
  | .checksumInvalid => true

/-- SYNC_CHECK's `recognised`: there is a first byte and it is `SYNC_BYTE` (40_recognition.md R91, R93). -/
def recognised (c : Config) (d : Delivery) : Bool := decide (1 ≤ d.len) && decide (d.frame[0] = c.syncByte)

/-- LEN_CHECK passes: the length is `FRAME_LEN` (40_recognition.md R92). -/
def lengthOk (c : Config) (d : Delivery) : Bool := decide (d.len = c.frameLen)

/-- `(acc - b) & mask`: "mathematical subtraction, then mask" (42_checksum.md R130). The mask has 8 bits, so the AND
reads the low 8 bits of the difference's two's complement (00_scope.md R11). -/
def csumStep (mask acc b : Byte) : Byte := BitVec.ofInt 8 ((acc.toNat : Int) - (b.toNat : Int)) &&& mask

/-- The final accumulator, over all 29 bytes in order (42_checksum.md R130, R131). -/
def csumAcc (c : Config) (f : Frame) : Byte := f.toList.foldl (csumStep c.csumMask) c.csumInit

/-- `csum_ok` (42_checksum.md R130). -/
def csumOk (c : Config) (f : Frame) : Bool := decide (csumAcc c f = 0)

/-- The outcome of a frame, in the evaluation order of 43_frame_decode.md R150: NOT_RECOGNIZED, then BAD_LENGTH, then
CHECKSUM_INVALID (60_exceptions.md R173). -/
def outcome (c : Config) (d : Delivery) : Status :=
  if !recognised c d then .notRecognized
  else if !lengthOk c d then .badLength
  else if !csumOk c d.frame then .checksumInvalid
  else .valid

/-- A field's value where the frame is VALID, zero where it is not (43_frame_decode.md R152; 30_encoding.md R74). -/
def whenValid (c : Config) (d : Delivery) {n : Nat} (v : BitVec n) : BitVec n :=
  if outcome c d = .valid then v else 0

/-! ## The source's state machine -/

/-- The states of the source's machine `AwaitingSync → Decoding → {Valid, Invalid}` (40_recognition.md R95). None is a
register of FDX. -/
inductive Phase where
  | awaitingSync
  | decoding
  | valid
  | invalid
  deriving DecidableEq, Repr

/-- The states that one frame passes within its acceptance cycle (40_recognition.md R95). The checksum step follows
`Decoding` (90_conflicts.md C5). -/
def phases (c : Config) (d : Delivery) : List Phase :=
  if !recognised c d then [.awaitingSync, .invalid]
  else if !lengthOk c d then [.awaitingSync, .decoding, .invalid]
  else if !csumOk c d.frame then [.awaitingSync, .decoding, .invalid]
  else [.awaitingSync, .decoding, .valid]

end Sys2Proof.Machine
end

