-- ==== Sys2Proof/Machine/Ops.lean ====
section
/-! DEFINITION. The shared operations over the state: the port samples, what one rising edge does to the register set
(10_state.md R33), and reporting an outcome, which is what FDX has in the place of an exception (60_exceptions.md R170,
R172). There is no return from one (R174) and no memory (20_memory.md R50). -/

namespace Sys2Proof.Machine

/-! ## The input ports -/

/-- What the ports carry at edge `n` past the schedule: free values (10_state.md R22; log 2). -/
def freeSample (lenW n : Nat) : PortSample lenW where
  rst := Config.freeRst n
  inValid := Config.freeInValid n
  inLen := Config.freeInLen lenW n
  inFrame := Config.freeInFrame n

/-- What the ports carry at the `k`-th coming edge, the next one being `k = 0`. -/
def State.sampleAt (s : State) (k : Nat) : PortSample s.cfg.lenW :=
  s.inputs[k]?.getD (freeSample s.cfg.lenW (s.cycle + k))

/-- What the ports carry at the next edge (10_state.md R22, R31). -/
def State.sample (s : State) : PortSample s.cfg.lenW := s.sampleAt 0

/-- An acceptance cycle: `in_valid = 1` and `rst = 0` at the edge (00_scope.md R14; 10_state.md R33). -/
def PortSample.accepted {lenW : Nat} (p : PortSample lenW) : Bool := !p.rst && p.inValid

/-- The frame and length on the ports (10_state.md R22; 20_memory.md R52, R57). -/
def PortSample.delivery {lenW : Nat} (p : PortSample lenW) : Delivery := ⟨p.inLen.toNat, unpackFrame p.inFrame⟩

/-- The operation that the frame on the ports selects: what plays the part of fetching an instruction (10_state.md
R21; 30_encoding.md R70). -/
def State.fetched (s : State) : Instr := decode s.cfg s.sample.inLen.toNat s.sample.inFrame

/-- The ports move on to the next edge's sample. -/
def State.advance (s : State) : State := { s with inputs := s.inputs.tail, cycle := s.cycle + 1 }

/-- An edge that ran an operation moves on once the operation has given its next state. -/
def thenAdvance (o : Host.Outcome State Fault Refusal) : Host.Outcome State Fault Refusal :=
  match o with
  | .next s => .next s.advance
  | .fault r => .fault r
  | .refused r => .refused r

/-! ## The register set -/

/-- Every operation of a build with illegal parameters is refused (00_scope.md R9; 93_implementation_defined.md U11). -/
def onBuild (s t : State) : Host.Outcome State Fault Refusal :=
  if s.cfg.legal then .next t else .refused .illegalBuild

/-- The state whose output registers hold `r`. -/
def State.withRegs (s : State) (r : Regs s.cfg.outW) : State := { s with regs := some r }

/-- A write of registers. Before the first reset edge the registers hold no value, and only that edge gives them one
(10_state.md R32; 70_reset_and_hazards.md R192; log 3). -/
def State.updateRegs (s : State) (g : Regs s.cfg.outW → Regs s.cfg.outW) : State :=
  { s with regs := s.regs.map g }

/-- The register set that reports an outcome: `out_valid <- 1`, the status code, and every field register and
`out_raw` zero unless the outcome is VALID (60_exceptions.md R170; 43_frame_decode.md R152). -/
def Regs.report {w : Nat} (r : Regs w) (st : Status) : Regs w where
  toFields := if st = .valid then r.toFields else Fields.zero w
  valid := true
  status := st

/-- Taking the outcome of a frame: the one operation by which a check ends a frame (60_exceptions.md R170, R171). -/
def State.report (s : State) (st : Status) : State := s.updateRegs fun r => r.report st

/-- An edge with `rst = 1`: every register takes its reset value, whatever it held (70_reset_and_hazards.md R190 to
R192). -/
def State.resetEdge (s : State) : State := { s with regs := some (Regs.reset s.cfg.outW) }

/-- An edge with `rst = 0` and `in_valid = 0`: `out_valid <- 0`, every other register keeps its value
(43_frame_decode.md R155). -/
def State.idleEdge (s : State) : State := s.updateRegs fun r => { r with valid := false }

end Sys2Proof.Machine
end

