-- ==== Sys2Proof/Machine/Checks.lean ====
section
/-! DEFINITION. The checks SYNC_CHECK and LEN_CHECK (40_recognition.md) and CSUM_CHECK (42_checksum.md). A check that
fails reports its outcome and ends the frame; LEN_CHECK runs only for a frame that SYNC_CHECK recognised, CSUM_CHECK
only for one that passed both gates (logs 4 and 5). -/

namespace Sys2Proof.Machine

/-- SYNC_CHECK (40_recognition.md R91, R93, R97): NOT_RECOGNIZED, or nothing. -/
def execSyncCheck (d : Delivery) (s : State) : Host.Outcome State Fault Refusal :=
  onBuild s (if recognised s.cfg d then s else s.report .notRecognized)

/-- LEN_CHECK (40_recognition.md R92, R94): BAD_LENGTH for a recognised frame of another length, or nothing. -/
def execLenCheck (d : Delivery) (s : State) : Host.Outcome State Fault Refusal :=
  onBuild s (if recognised s.cfg d && !lengthOk s.cfg d then s.report .badLength else s)

/-- CSUM_CHECK (42_checksum.md R130, R137, R140): for a frame that passed both gates, CHECKSUM_INVALID when `csum_ok` is
false, "otherwise the outcome is VALID"; nothing for a frame that did not. -/
def execCsumCheck (d : Delivery) (s : State) : Host.Outcome State Fault Refusal :=
  onBuild s
    (if recognised s.cfg d && lengthOk s.cfg d then
      s.report (if csumOk s.cfg d.frame then .valid else .checksumInvalid)
    else s)

end Sys2Proof.Machine
end

