-- ==== Sys2Proof/Machine/FieldExtract.lean ====
section
/-! DEFINITION. The twelve field operations (41_field_extract.md R108 to R119). Each writes its own output register: the
field where the frame's outcome is VALID, zero where it is not (30_encoding.md R74; 43_frame_decode.md R152). None
changes the outcome. -/

namespace Sys2Proof.Machine

/-- CAMERA_ID (41_field_extract.md R108). -/
def execCameraId (d : Delivery) (s : State) : Host.Outcome State Fault Refusal :=
  onBuild s (s.updateRegs fun r => { r with
    cameraId := whenValid s.cfg d (extU8 d.frame[1]) })

/-- PAN (41_field_extract.md R109). -/
def execPan (d : Delivery) (s : State) : Host.Outcome State Fault Refusal :=
  onBuild s (s.updateRegs fun r => { r with
    pan := whenValid s.cfg d (extSfix24 s.cfg.outW d.frame[2] d.frame[3] d.frame[4] s.cfg.fracRot) })

/-- TILT (41_field_extract.md R110). -/
def execTilt (d : Delivery) (s : State) : Host.Outcome State Fault Refusal :=
  onBuild s (s.updateRegs fun r => { r with
    tilt := whenValid s.cfg d (extSfix24 s.cfg.outW d.frame[5] d.frame[6] d.frame[7] s.cfg.fracRot) })

/-- ROLL (41_field_extract.md R111). -/
def execRoll (d : Delivery) (s : State) : Host.Outcome State Fault Refusal :=
  onBuild s (s.updateRegs fun r => { r with
    roll := whenValid s.cfg d (extSfix24 s.cfg.outW d.frame[8] d.frame[9] d.frame[10] s.cfg.fracRot) })

/-- POS_X (41_field_extract.md R112). -/
def execPosX (d : Delivery) (s : State) : Host.Outcome State Fault Refusal :=
  onBuild s (s.updateRegs fun r => { r with
    posX := whenValid s.cfg d (extSfix24 s.cfg.outW d.frame[11] d.frame[12] d.frame[13] s.cfg.fracPos) })

/-- POS_Y (41_field_extract.md R113). -/
def execPosY (d : Delivery) (s : State) : Host.Outcome State Fault Refusal :=
  onBuild s (s.updateRegs fun r => { r with
    posY := whenValid s.cfg d (extSfix24 s.cfg.outW d.frame[14] d.frame[15] d.frame[16] s.cfg.fracPos) })

/-- POS_Z (41_field_extract.md R114). -/
def execPosZ (d : Delivery) (s : State) : Host.Outcome State Fault Refusal :=
  onBuild s (s.updateRegs fun r => { r with
    posZ := whenValid s.cfg d (extSfix24 s.cfg.outW d.frame[17] d.frame[18] d.frame[19] s.cfg.fracPos) })

/-- ZOOM (41_field_extract.md R115). -/
def execZoom (d : Delivery) (s : State) : Host.Outcome State Fault Refusal :=
  onBuild s (s.updateRegs fun r => { r with
    zoom := whenValid s.cfg d (extU16 d.frame[20] d.frame[21]) })

/-- FOCUS (41_field_extract.md R116). -/
def execFocus (d : Delivery) (s : State) : Host.Outcome State Fault Refusal :=
  onBuild s (s.updateRegs fun r => { r with
    focus := whenValid s.cfg d (extU8 d.frame[22]) })

/-- SPARE (41_field_extract.md R117). -/
def execSpare (d : Delivery) (s : State) : Host.Outcome State Fault Refusal :=
  onBuild s (s.updateRegs fun r => { r with
    spare := whenValid s.cfg d (extU16 d.frame[23] d.frame[24]) })

/-- CHECKSUM (41_field_extract.md R118). -/
def execChecksum (d : Delivery) (s : State) : Host.Outcome State Fault Refusal :=
  onBuild s (s.updateRegs fun r => { r with
    checksum := whenValid s.cfg d (extU8 d.frame[25]) })

/-- RAW (41_field_extract.md R119). -/
def execRaw (d : Delivery) (s : State) : Host.Outcome State Fault Refusal :=
  onBuild s (s.updateRegs fun r => { r with
    raw := whenValid s.cfg d (packFrame d.frame) })

end Sys2Proof.Machine
end

