-- ==== Sys2Proof/Machine/FrameDecode.lean ====
section
/-! DEFINITION. DECODE_D1, the one top-level operation of FDX (43_frame_decode.md). -/

namespace Sys2Proof.Machine

/-- `DECODE(in_len, in_frame)`: the outcome and the fields, in the evaluation order of 43_frame_decode.md R150. -/
def decodeFrame (c : Config) (d : Delivery) : Status × Fields c.outW :=
  if d.len = 0 ∨ d.frame[0] ≠ c.syncByte then (.notRecognized, Fields.zero c.outW)
  else if d.len ≠ c.frameLen then (.badLength, Fields.zero c.outW)
  else if csumOk c d.frame = false then (.checksumInvalid, Fields.zero c.outW)
  else (.valid, extractFields c d.frame)

/-- The register set after an acceptance cycle: `out_valid <- 1` and DECODE's result, all written together (10_state.md
R33; 43_frame_decode.md R154). -/
def acceptedRegs (c : Config) (d : Delivery) : Regs c.outW where
  toFields := (decodeFrame c d).2
  valid := true
  status := (decodeFrame c d).1

/-- DECODE_D1 (43_frame_decode.md R150, R152 to R154). -/
def execDecodeD1 (d : Delivery) (s : State) : Host.Outcome State Fault Refusal :=
  onBuild s (s.updateRegs fun _ => acceptedRegs s.cfg d)

end Sys2Proof.Machine
end

