-- ==== Sys2Proof/Machine/Dispatch.lean ====
section
/-! DEFINITION. One arm per row of spec/opcode_table.json, each one call of the row's meaning. -/

namespace Sys2Proof.Machine

def exec (i : Instr) (s : State) : Host.Outcome State Fault Refusal :=
  match i with
  | .decodeD1 d => Sys2Proof.Machine.execDecodeD1 d s
  | .syncCheck d => Sys2Proof.Machine.execSyncCheck d s
  | .lenCheck d => Sys2Proof.Machine.execLenCheck d s
  | .csumCheck d => Sys2Proof.Machine.execCsumCheck d s
  | .cameraId d => Sys2Proof.Machine.execCameraId d s
  | .pan d => Sys2Proof.Machine.execPan d s
  | .tilt d => Sys2Proof.Machine.execTilt d s
  | .roll d => Sys2Proof.Machine.execRoll d s
  | .posX d => Sys2Proof.Machine.execPosX d s
  | .posY d => Sys2Proof.Machine.execPosY d s
  | .posZ d => Sys2Proof.Machine.execPosZ d s
  | .zoom d => Sys2Proof.Machine.execZoom d s
  | .focus d => Sys2Proof.Machine.execFocus d s
  | .spare d => Sys2Proof.Machine.execSpare d s
  | .checksum d => Sys2Proof.Machine.execChecksum d s
  | .raw d => Sys2Proof.Machine.execRaw d s

end Sys2Proof.Machine
end

