-- ==== Sys2Proof/Machine/Step.lean ====
section
/-! DEFINITION. One step is one rising edge of `clk` (10_state.md R31, R33). -/

namespace Sys2Proof.Machine

/-- One rising edge (10_state.md R33): reset wins (70_reset_and_hazards.md R191), then an acceptance cycle runs the
operation that the presented frame selects, else the registers are held with `out_valid <- 0` (43_frame_decode.md
R155). A build with illegal parameters has no behaviour (00_scope.md R9). -/
def step (s : State) : Host.Outcome State Fault Refusal :=
  if s.cfg.legal then
    if s.sample.rst then .next s.resetEdge.advance
    else if s.sample.inValid then thenAdvance (exec s.fetched s)
    else .next s.idleEdge.advance
  else .refused .illegalBuild

/-- `s` with a frame of 29 bytes on the ports of its next edge: `rst = 0`, `in_valid = 1`, `in_len = 29` and the bits of
`w`, those from `nbits` on zero (log 8). -/
def State.withFetchWord (s : State) (nbits w : Nat) : State :=
  { s with inputs := ⟨false, true, BitVec.ofNat s.cfg.lenW 29, BitVec.ofNat 232 (w % 2 ^ nbits)⟩ :: s.inputs.tail }

end Sys2Proof.Machine
end

