-- ==== Sys2Proof/Machine/Ports.lean ====
section
/-! DEFINITION. FDX's two neighbours (60_exceptions.md R181): the output ports that the consumer reads (10_state.md R23),
the record it takes, and how the framer presents the bytes it delivers. -/

namespace Sys2Proof.Machine

/-! ## The output ports -/

/-- The output ports, one per register of R24 (10_state.md R23). -/
inductive OutPort where
  | outValid
  | outStatus
  | outCameraId
  | outPan
  | outTilt
  | outRoll
  | outPosX
  | outPosY
  | outPosZ
  | outZoom
  | outFocus
  | outSpare
  | outChecksum
  | outRaw
  deriving DecidableEq, Repr

/-- The width of an output port (10_state.md R24). -/
def OutPort.width (outW : Nat) : OutPort → Nat
  | .outValid => 1
  | .outStatus => 2
  | .outCameraId => 8
  | .outPan => outW
  | .outTilt => outW
  | .outRoll => outW
  | .outPosX => outW
  | .outPosY => outW
  | .outPosZ => outW
  | .outZoom => 16
  | .outFocus => 8
  | .outSpare => 16
  | .outChecksum => 8
  | .outRaw => 232

/-- What a port carries: the register of its name "and nothing else" (10_state.md R23). -/
def Regs.port {w : Nat} (r : Regs w) : (p : OutPort) → BitVec (p.width w)
  | .outValid => BitVec.ofBool r.valid
  | .outStatus => r.status.code
  | .outCameraId => r.cameraId
  | .outPan => r.pan
  | .outTilt => r.tilt
  | .outRoll => r.roll
  | .outPosX => r.posX
  | .outPosY => r.posY
  | .outPosZ => r.posZ
  | .outZoom => r.zoom
  | .outFocus => r.focus
  | .outSpare => r.spare
  | .outChecksum => r.checksum
  | .outRaw => r.raw

/-- A consumer's read of an output port; before the first reset edge it faults (10_state.md R32). -/
def readPort (s : State) (p : OutPort) : Except Fault (BitVec (p.width s.cfg.outW)) :=
  match s.regs with
  | some r => .ok (r.port p)
  | none => .error .portHoldsNoValue

/-- What a consumer takes in one cycle: the status and the fields of the frame just accepted where `out_valid = 1`,
nothing where it is 0 (10_state.md R26; 70_reset_and_hazards.md R196, R197). -/
def takeResult (s : State) : Except Fault (Option (Status × Fields s.cfg.outW)) :=
  match s.regs with
  | some r => .ok (if r.valid then some (r.status, r.toFields) else none)
  | none => .error .portHoldsNoValue

/-- The record a consumer emits: none "for a non-VALID status" (60_exceptions.md R181; 42_checksum.md R140). -/
def takeRecord (s : State) : Except Fault (Option (Fields s.cfg.outW)) :=
  match s.regs with
  | some r => .ok (if r.valid = true ∧ r.status = .valid then some r.toFields else none)
  | none => .error .portHoldsNoValue

/-! ## The framer -/

/-- The length report: a delivered length of `2^LEN_W - 1` or more is reported as `2^LEN_W - 1` (60_exceptions.md
R181). -/
def saturatedLen (lenW delivered : Nat) : BitVec lenW := BitVec.ofNat lenW (min delivered (2 ^ lenW - 1))

/-- The framer presents the bytes it delivered on lanes `0..min(len,29)-1`, and anything on the other lanes
(60_exceptions.md R181). -/
def presentBytes (lenW : Nat) (bytes : List Byte) (unused : Frame) : PortSample lenW where
  rst := false
  inValid := true
  inLen := saturatedLen lenW bytes.length
  inFrame := packFrame (Vector.ofFn fun i => bytes[i.val]?.getD unused[i])

end Sys2Proof.Machine
end

