-- ==== Sys2Proof/Safety.lean ====
section
/-! DEFINITION. What counts as right behaviour of FDX over many edges: the edge function of 10_state.md R33 as one
equation, the observation of a run (60_exceptions.md R183), and the invariant of the output registers (43_frame_decode.md
R152, R153, R158; 41_field_extract.md R120). -/

namespace Sys2Proof.Machine

/-- The right-hand side of 10_state.md R33 for the build `c`: the register set after an edge with the port sample `p`.
Only an edge with `rst = 1` gives a value to registers that hold none (R32; log 3). -/
def nextRegs (c : Config) (p : PortSample c.lenW) (r : Option (Regs c.outW)) : Option (Regs c.outW) :=
  if p.rst then some (Regs.reset c.outW)
  else if p.inValid then r.map fun _ => acceptedRegs c p.delivery
  else r.map fun r => { r with valid := false }

/-- The samples of the next `n` edges, in order. -/
def State.samples (s : State) (n : Nat) : List (PortSample s.cfg.lenW) := (List.range n).map s.sampleAt

/-- The state after `n` edges with no illegal build: the registers folded over the samples (R33), the schedule moved
on. -/
def State.after (s : State) (n : Nat) : State :=
  { s with
    inputs := s.inputs.drop n
    cycle := s.cycle + n
    regs := (s.samples n).foldl (fun r p => nextRegs s.cfg p r) s.regs }

/-- What a consumer sees of a run: the registers in each of the cycles after the next `n` edges (60_exceptions.md
R183). Each comes with its build, which fixes its widths. -/
def observe : Nat → State → List ((c : Config) × Option (Regs c.outW))
  | 0, _ => []
  | n + 1, s =>
    match step s with
    | .next t => ⟨t.cfg, t.regs⟩ :: observe n t
    | .fault _ => []
    | .refused _ => []

/-- The result that a cycle presents: the status and the fields, where `out_valid = 1` (10_state.md R26). -/
def presentedIn : ((c : Config) × Option (Regs c.outW)) → Option ((c : Config) × (Status × Fields c.outW))
  | ⟨c, some r⟩ => if r.valid then some ⟨c, (r.status, r.toFields)⟩ else none
  | ⟨_, none⟩ => none

/-- The results that the next `n` edges present, in the order of presentation (20_memory.md R61). -/
def presentedResults (n : Nat) (s : State) : List ((c : Config) × (Status × Fields c.outW)) :=
  (observe n s).filterMap presentedIn

/-- A register set that no mix of frames, and no rejected frame, has left: under VALID every register is derived from
the bytes of `out_raw`, which carry the sync byte and a valid checksum; under any other status every field register is
zero (43_frame_decode.md R152, R153, R158; 41_field_extract.md R120). -/
def Regs.Coherent (c : Config) (r : Regs c.outW) : Prop :=
  (r.status = .valid →
    (unpackFrame r.raw)[0] = c.syncByte ∧ csumOk c (unpackFrame r.raw) = true ∧
      r.toFields = extractFields c (unpackFrame r.raw)) ∧
  (r.status ≠ .valid → r.toFields = Fields.zero c.outW)

/-- The invariant of FDX: a legal build whose registers, if they hold values, are coherent. -/
def State.Inv (s : State) : Prop := s.cfg.legal = true ∧ ∀ r, s.regs = some r → r.Coherent s.cfg

/-- The same state in a build with other fractional-bit counts (41_field_extract.md R122). -/
def State.withFracs (s : State) (rot pos : Nat) : State :=
  { s with cfg := { s.cfg with fracRot := rot, fracPos := pos } }

/-- The sub-operations of DECODE_D1 in the order of the opcode table (30_encoding.md R74; 43_frame_decode.md R150). -/
def subOperations (d : Delivery) : List Instr :=
  [.syncCheck d, .lenCheck d, .csumCheck d, .cameraId d, .pan d, .tilt d, .roll d, .posX d, .posY d, .posZ d,
    .zoom d, .focus d, .spare d, .checksum d, .raw d]

/-- The operations of a list performed one after the other, stopping at the first that gives no next state. -/
def execAll : List Instr → State → Host.Outcome State Fault Refusal
  | [], s => .next s
  | i :: is, s =>
    match exec i s with
    | .next t => execAll is t
    | .fault r => .fault r
    | .refused r => .refused r

end Sys2Proof.Machine
end

