-- ==== Sys2Proof/Certificates/Slice0/Obligations.lean ====
section
/-! DEFINITION. What the provers are asked to settle about FDX. Each statement's docstring names the rules of spec/ it
formalises; the titles, tiers and citations are in OBLIGATIONS.json. -/

open Sys2Proof Sys2Proof.Machine

/-! ## The operations of the opcode table -/

/-- DECODE_D1 in each of the four cases of its evaluation order (43_frame_decode.md R150, R152). Every other part of the
state is unchanged. -/
def Obligations.DecodeD1ReportsOutcomeAndFields : Prop :=
  ∀ (d : Delivery) (s : State) (r : Regs s.cfg.outW), s.cfg.legal = true → s.regs = some r →
    (d.len = 0 ∨ d.frame[0] ≠ s.cfg.syncByte →
      exec (.decodeD1 d) s = .next (s.withRegs
        { toFields := Fields.zero s.cfg.outW, valid := true, status := .notRecognized })) ∧
    (1 ≤ d.len → d.frame[0] = s.cfg.syncByte → d.len ≠ 29 →
      exec (.decodeD1 d) s = .next (s.withRegs
        { toFields := Fields.zero s.cfg.outW, valid := true, status := .badLength })) ∧
    (d.frame[0] = s.cfg.syncByte → d.len = 29 → csumAcc s.cfg d.frame ≠ 0 →
      exec (.decodeD1 d) s = .next (s.withRegs
        { toFields := Fields.zero s.cfg.outW, valid := true, status := .checksumInvalid })) ∧
    (d.frame[0] = s.cfg.syncByte → d.len = 29 → csumAcc s.cfg d.frame = 0 →
      exec (.decodeD1 d) s = .next (s.withRegs
        { valid := true
          status := .valid
          cameraId := extU8 d.frame[1]
          pan := extSfix24 s.cfg.outW d.frame[2] d.frame[3] d.frame[4] s.cfg.fracRot
          tilt := extSfix24 s.cfg.outW d.frame[5] d.frame[6] d.frame[7] s.cfg.fracRot
          roll := extSfix24 s.cfg.outW d.frame[8] d.frame[9] d.frame[10] s.cfg.fracRot
          posX := extSfix24 s.cfg.outW d.frame[11] d.frame[12] d.frame[13] s.cfg.fracPos
          posY := extSfix24 s.cfg.outW d.frame[14] d.frame[15] d.frame[16] s.cfg.fracPos
          posZ := extSfix24 s.cfg.outW d.frame[17] d.frame[18] d.frame[19] s.cfg.fracPos
          zoom := extU16 d.frame[20] d.frame[21]
          focus := extU8 d.frame[22]
          spare := extU16 d.frame[23] d.frame[24]
          checksum := extU8 d.frame[25]
          raw := packFrame d.frame }))

/-- SYNC_CHECK: NOT_RECOGNIZED with zero fields for a frame without the sync byte and for a frame without a byte
(40_recognition.md R91, R93, R97). -/
def Obligations.SyncCheckReportsNotRecognized : Prop :=
  ∀ (d : Delivery) (s : State) (r : Regs s.cfg.outW), s.cfg.legal = true → s.regs = some r →
    d.len = 0 ∨ d.frame[0] ≠ s.cfg.syncByte →
    exec (.syncCheck d) s = .next (s.withRegs
      { toFields := Fields.zero s.cfg.outW, valid := true, status := .notRecognized })

/-- LEN_CHECK: BAD_LENGTH with zero fields for a recognised frame of another length than 29, and the length at which
`in_len` saturates is such a length in every build (40_recognition.md R92). -/
def Obligations.LenCheckReportsBadLength : Prop :=
  ∀ (d : Delivery) (s : State) (r : Regs s.cfg.outW), s.cfg.legal = true → s.regs = some r →
    1 ≤ d.len → d.frame[0] = s.cfg.syncByte →
    d.len ≠ 29 ∨ d.len = 2 ^ s.cfg.lenW - 1 →
    exec (.lenCheck d) s = .next (s.withRegs
      { toFields := Fields.zero s.cfg.outW, valid := true, status := .badLength })

/-- CSUM_CHECK on a frame that fails it: the fields zero, and the only trace the status and `out_valid`
(42_checksum.md R140). -/
def Obligations.CsumCheckDiscardsFailingFrame : Prop :=
  ∀ (d : Delivery) (s : State) (r : Regs s.cfg.outW), s.cfg.legal = true → s.regs = some r →
    d.frame[0] = s.cfg.syncByte → d.len = 29 → csumAcc s.cfg d.frame ≠ 0 →
    exec (.csumCheck d) s = .next (s.withRegs
      { toFields := Fields.zero s.cfg.outW, valid := true, status := .checksumInvalid })

/-- THE MODEL'S CHOICE (logs 4 and 5): SYNC_CHECK and LEN_CHECK on a frame that passes them have no effect; CSUM_CHECK
on a frame that passes it reports VALID and leaves the field registers to the field operations; LEN_CHECK and CSUM_CHECK
on a frame that did not reach them have no effect. -/
def Obligations.ChecksThatPassOrAreNotReached : Prop :=
  ∀ (d : Delivery) (s : State) (r : Regs s.cfg.outW), s.cfg.legal = true → s.regs = some r →
    (1 ≤ d.len → d.frame[0] = s.cfg.syncByte → exec (.syncCheck d) s = .next s) ∧
    (d.frame[0] = s.cfg.syncByte → d.len = 29 → exec (.lenCheck d) s = .next s) ∧
    (d.frame[0] = s.cfg.syncByte → d.len = 29 → csumAcc s.cfg d.frame = 0 →
      exec (.csumCheck d) s = .next (s.withRegs { r with valid := true, status := .valid })) ∧
    (d.len = 0 ∨ d.frame[0] ≠ s.cfg.syncByte → exec (.lenCheck d) s = .next s) ∧
    (d.len ≠ 29 ∨ d.frame[0] ≠ s.cfg.syncByte → exec (.csumCheck d) s = .next s)

/-- CAMERA_ID, FOCUS and CHECKSUM on a VALID frame: the byte, and no other change (41_field_extract.md R108, R116,
R118). -/
def Obligations.ByteFieldOperations : Prop :=
  ∀ (d : Delivery) (s : State) (r : Regs s.cfg.outW), s.cfg.legal = true → s.regs = some r →
    outcome s.cfg d = .valid →
    exec (.cameraId d) s = .next (s.withRegs { r with cameraId := d.frame[1] }) ∧
    exec (.focus d) s = .next (s.withRegs { r with focus := d.frame[22] }) ∧
    exec (.checksum d) s = .next (s.withRegs { r with checksum := d.frame[25] })

/-- ZOOM and SPARE on a VALID frame: the big-endian 16-bit value, and no other change (41_field_extract.md R115,
R117). -/
def Obligations.WordFieldOperations : Prop :=
  ∀ (d : Delivery) (s : State) (r : Regs s.cfg.outW), s.cfg.legal = true → s.regs = some r →
    outcome s.cfg d = .valid →
    exec (.zoom d) s = .next (s.withRegs
      { r with zoom := BitVec.ofNat 16 (d.frame[20].toNat * 2 ^ 8 + d.frame[21].toNat) }) ∧
    exec (.spare d) s = .next (s.withRegs
      { r with spare := BitVec.ofNat 16 (d.frame[23].toNat * 2 ^ 8 + d.frame[24].toNat) })

/-- PAN, TILT and ROLL on a VALID frame: the sign-extended 24-bit field, and no other change (41_field_extract.md R109,
R110, R111). -/
def Obligations.RotationFieldOperations : Prop :=
  ∀ (d : Delivery) (s : State) (r : Regs s.cfg.outW), s.cfg.legal = true → s.regs = some r →
    outcome s.cfg d = .valid →
    exec (.pan d) s = .next (s.withRegs
      { r with pan := extSfix24 s.cfg.outW d.frame[2] d.frame[3] d.frame[4] s.cfg.fracRot }) ∧
    exec (.tilt d) s = .next (s.withRegs
      { r with tilt := extSfix24 s.cfg.outW d.frame[5] d.frame[6] d.frame[7] s.cfg.fracRot }) ∧
    exec (.roll d) s = .next (s.withRegs
      { r with roll := extSfix24 s.cfg.outW d.frame[8] d.frame[9] d.frame[10] s.cfg.fracRot })

/-- POS_X, POS_Y and POS_Z on a VALID frame: the sign-extended 24-bit field, and no other change (41_field_extract.md
R112, R113, R114). -/
def Obligations.PositionFieldOperations : Prop :=
  ∀ (d : Delivery) (s : State) (r : Regs s.cfg.outW), s.cfg.legal = true → s.regs = some r →
    outcome s.cfg d = .valid →
    exec (.posX d) s = .next (s.withRegs
      { r with posX := extSfix24 s.cfg.outW d.frame[11] d.frame[12] d.frame[13] s.cfg.fracPos }) ∧
    exec (.posY d) s = .next (s.withRegs
      { r with posY := extSfix24 s.cfg.outW d.frame[14] d.frame[15] d.frame[16] s.cfg.fracPos }) ∧
    exec (.posZ d) s = .next (s.withRegs
      { r with posZ := extSfix24 s.cfg.outW d.frame[17] d.frame[18] d.frame[19] s.cfg.fracPos })

/-- RAW on a VALID frame: byte `i` of the frame on lane `i` of `out_raw`, and no other change; `B[0]` is then
`SYNC_BYTE` (41_field_extract.md R119; 20_memory.md R52). -/
def Obligations.RawCopiesEveryLane : Prop :=
  ∀ (d : Delivery) (s : State) (r : Regs s.cfg.outW), s.cfg.legal = true → s.regs = some r →
    outcome s.cfg d = .valid →
    ∃ q : FrameBits, exec (.raw d) s = .next (s.withRegs { r with raw := q }) ∧
      (∀ (i : Nat) (h : i < 29), q.extractLsb' (8 * i) 8 = d.frame[i]) ∧ q.extractLsb' 0 8 = s.cfg.syncByte

/-- THE MODEL'S CHOICE (log 4): a field operation performed on a frame that is not VALID makes its own register zero and
changes no other. -/
def Obligations.FieldOperationsOnOtherFrames : Prop :=
  ∀ (d : Delivery) (s : State) (r : Regs s.cfg.outW), s.cfg.legal = true → s.regs = some r →
    outcome s.cfg d ≠ .valid →
    exec (.cameraId d) s = .next (s.withRegs { r with cameraId := 0 }) ∧
    exec (.pan d) s = .next (s.withRegs { r with pan := 0 }) ∧
    exec (.tilt d) s = .next (s.withRegs { r with tilt := 0 }) ∧
    exec (.roll d) s = .next (s.withRegs { r with roll := 0 }) ∧
    exec (.posX d) s = .next (s.withRegs { r with posX := 0 }) ∧
    exec (.posY d) s = .next (s.withRegs { r with posY := 0 }) ∧
    exec (.posZ d) s = .next (s.withRegs { r with posZ := 0 }) ∧
    exec (.zoom d) s = .next (s.withRegs { r with zoom := 0 }) ∧
    exec (.focus d) s = .next (s.withRegs { r with focus := 0 }) ∧
    exec (.spare d) s = .next (s.withRegs { r with spare := 0 }) ∧
    exec (.checksum d) s = .next (s.withRegs { r with checksum := 0 }) ∧
    exec (.raw d) s = .next (s.withRegs { r with raw := 0 })

/-- Which outcome a frame gets, and its code: the four rows of 60_exceptions.md R170 with the codes of 10_state.md
R25. -/
def Obligations.OutcomeTable : Prop :=
  ∀ (c : Config) (d : Delivery), c.legal = true →
    (outcome c d = .notRecognized ↔ d.len = 0 ∨ d.frame[0] ≠ c.syncByte) ∧
    (outcome c d = .badLength ↔ 1 ≤ d.len ∧ d.frame[0] = c.syncByte ∧ d.len ≠ 29) ∧
    (outcome c d = .checksumInvalid ↔ d.frame[0] = c.syncByte ∧ d.len = 29 ∧ csumAcc c d.frame ≠ 0) ∧
    (outcome c d = .valid ↔ d.frame[0] = c.syncByte ∧ d.len = 29 ∧ csumAcc c d.frame = 0) ∧
    Status.valid.code = 0b00 ∧ Status.notRecognized.code = 0b01 ∧ Status.badLength.code = 0b10 ∧
    Status.checksumInvalid.code = 0b11

/-- The sub-operations performed in the table's order on one frame leave what DECODE_D1 leaves, from every state
(43_frame_decode.md R150; 30_encoding.md R74). THE MODEL'S CHOICE (logs 4 and 5): what each row does when it is performed
on its own, and what a check writes when it passes; the spec performs the rows only within DECODE_D1. -/
def Obligations.SubOperationsComposeToDecodeD1 : Prop :=
  ∀ (d : Delivery) (s : State), execAll (subOperations d) s = exec (.decodeD1 d) s

/-! ## The edges -/

/-- At an acceptance edge the step is the decoded operation's `exec`, followed by the ports moving on to the next
sample. -/
def Obligations.StepRunsTheDecodedOperation : Prop :=
  ∀ s : State, s.cfg.legal = true → s.sample.rst = false → s.sample.inValid = true →
    step s = thenAdvance (exec (decode s.cfg s.sample.inLen.toNat s.sample.inFrame) s) ∧
    ∀ t, exec (decode s.cfg s.sample.inLen.toNat s.sample.inFrame) s = .next t →
      step s = .next { t with inputs := t.inputs.tail, cycle := t.cycle + 1 }

/-- DECODE_D1 is performed at every acceptance edge, whatever the leading byte (43_frame_decode.md, R150; 10_state.md
R33). -/
def Obligations.EveryAcceptanceEdgePerformsDecodeD1 : Prop :=
  ∀ s : State, s.cfg.legal = true → s.sample.accepted = true →
    step s = thenAdvance (exec (.decodeD1 s.sample.delivery) s)

/-- One step of a legal build whose registers hold values is 10_state.md R33: reset, or DECODE's result with
`out_valid <- 1`, or a hold with `out_valid <- 0`; the ports move on. -/
def Obligations.StepIsTheEdgeFunction : Prop :=
  ∀ (s : State) (r : Regs s.cfg.outW), s.cfg.legal = true → s.regs = some r →
    step s = .next (s.advance.withRegs
      (if s.sample.rst = true then Regs.reset s.cfg.outW
      else if s.sample.inValid = true then
        { toFields := (decodeFrame s.cfg s.sample.delivery).2
          valid := true
          status := (decodeFrame s.cfg s.sample.delivery).1 }
      else { r with valid := false }))

/-- An edge with `rst = 1` gives every register its reset value, whatever the registers held and whatever frame is
presented; a frame is accepted at the edge after it; a result that a reset follows stands for the cycle between the two
edges (70_reset_and_hazards.md R190, R191). -/
def Obligations.ResetEdgeWinsOverAFrame : Prop :=
  (∀ s : State, s.cfg.legal = true → s.sample.rst = true →
    step s = .next (s.advance.withRegs
      { valid := false, status := .notRecognized, cameraId := 0, pan := 0, tilt := 0, roll := 0, posX := 0,
        posY := 0, posZ := 0, zoom := 0, focus := 0, spare := 0, checksum := 0, raw := 0 })) ∧
  ∀ (c : Config) (p q : PortSample c.lenW) (ps : List (PortSample c.lenW)) (n : Nat) (r : Regs c.outW),
    c.legal = true → p.accepted = true → q.rst = true →
    step ⟨c, q :: p :: ps, n, some r⟩ = .next ⟨c, p :: ps, n + 1, some (Regs.reset c.outW)⟩ ∧
    step ⟨c, p :: ps, n + 1, some (Regs.reset c.outW)⟩ =
      .next ⟨c, ps, n + 2, some (acceptedRegs c p.delivery)⟩ ∧
    step ⟨c, p :: q :: ps, n, some r⟩ = .next ⟨c, q :: ps, n + 1, some (acceptedRegs c p.delivery)⟩ ∧
    step ⟨c, q :: ps, n + 1, some (acceptedRegs c p.delivery)⟩ = .next ⟨c, ps, n + 2, some (Regs.reset c.outW)⟩

/-- An edge with `rst = 0` and `in_valid = 0` clears `out_valid` and changes no other register (43_frame_decode.md
R155). -/
def Obligations.IdleEdgeHoldsTheRegisters : Prop :=
  ∀ (s : State) (r : Regs s.cfg.outW), s.cfg.legal = true → s.regs = some r →
    s.sample.rst = false → s.sample.inValid = false →
    step s = .next { s with
      inputs := s.inputs.tail
      cycle := s.cycle + 1
      regs := some { r with valid := false } }

/-- Before the first reset edge a read of any output port faults (10_state.md R32). -/
def Obligations.PortReadsFaultBeforeReset : Prop :=
  ∀ s : State, s.regs = none →
    (∀ p : OutPort, readPort s p = .error .portHoldsNoValue) ∧
    takeResult s = .error .portHoldsNoValue ∧ takeRecord s = .error .portHoldsNoValue

/-- THE MODEL'S CHOICE (log 3): before the first reset edge no operation and no edge with `rst = 0` gives a register a
value. -/
def Obligations.OnlyResetGivesFirstValues : Prop :=
  ∀ s : State, s.cfg.legal = true → s.regs = none →
    (∀ i : Instr, exec i s = .next s) ∧
    (s.sample.rst = false → step s = .next { s with inputs := s.inputs.tail, cycle := s.cycle + 1 })

/-- After power-up no register holds a value; one edge with `rst = 1` gives every register its reset value; from then
on the registers hold values after every step (70_reset_and_hazards.md R192, R194). -/
def Obligations.OneResetEdgeInitialises : Prop :=
  (∀ (c : Config) (p : PortSample c.lenW) (ps : List (PortSample c.lenW)), c.legal = true → p.rst = true →
    (State.powerUp c (p :: ps)).regs = none ∧
    step (State.powerUp c (p :: ps)) = .next ⟨c, ps, 1, some (Regs.reset c.outW)⟩) ∧
  ∀ s t : State, s.regs.isSome = true → step s = .next t → t.regs.isSome = true

/-- The reset values on the output ports of FDX as specified (10_state.md R24, the column "reset value"). -/
def Obligations.PortsAfterReset : Prop :=
  readPort State.reset .outValid = .ok 0 ∧ readPort State.reset .outStatus = .ok 0b01 ∧
    ∀ p : OutPort, p ≠ .outValid → p ≠ .outStatus → readPort State.reset p = .ok 0

/-- The defaults of the build parameters; a build outside the legal values is refused by every step and every operation;
no parameter changes while FDX runs (00_scope.md R9). -/
def Obligations.IllegalBuildsAreRefused : Prop :=
  Config.fdx = { frameLen := 29, syncByte := 0xD1, fracRot := 15, fracPos := 6, csumInit := 0x40, csumMask := 0x03,
                 outW := 32, lenW := 8 } ∧
  (∀ s : State,
    ¬ (s.cfg.frameLen = 29 ∧ s.cfg.fracRot ≤ 23 ∧ s.cfg.fracPos ≤ 23 ∧
        (s.cfg.csumMask = 0x03 ∨ s.cfg.csumMask = 0xFF) ∧ 24 ≤ s.cfg.outW ∧ s.cfg.outW ≤ 64 ∧
        5 ≤ s.cfg.lenW ∧ s.cfg.lenW ≤ 16) →
      step s = .refused .illegalBuild ∧ ∀ i : Instr, exec i s = .refused .illegalBuild) ∧
  ∀ s t : State, step s = .next t → t.cfg = s.cfg

/-- No step and no operation changes a parameter of the build (00_scope.md R9; 70_reset_and_hazards.md R193). -/
def Obligations.BuildNeverChanges : Prop :=
  ∀ s t : State, (step s = .next t → t.cfg = s.cfg) ∧ ∀ i : Instr, exec i s = .next t → t.cfg = s.cfg

/-- Every rising edge and every operation of a legal build gives a next state: nothing faults, stalls or is refused
(60_exceptions.md R172, R183; 43_frame_decode.md R156). -/
def Obligations.EveryEdgeHasANextState : Prop :=
  ∀ s : State, s.cfg.legal = true → (∃ t, step s = .next t) ∧ ∀ i : Instr, ∃ t, exec i s = .next t

/-- `out_valid` is 1 after an edge exactly when that edge was an acceptance cycle; after any other edge the other
registers hold what they held, or their reset values where the edge was a reset (10_state.md R26). -/
def Obligations.OutValidMarksAcceptance : Prop :=
  ∀ (s : State) (r : Regs s.cfg.outW), s.cfg.legal = true → s.regs = some r →
    ∃ r' : Regs s.cfg.outW, step s = .next (s.advance.withRegs r') ∧
      (r'.valid = true ↔ s.sample.accepted = true) ∧
      (s.sample.accepted = false → s.sample.rst = false → r'.status = r.status ∧ r'.toFields = r.toFields) ∧
      (s.sample.rst = true → r' = Regs.reset s.cfg.outW)

/-- Samples that are not read have no effect: with `rst = 1` or `in_valid = 0`, any two values of `in_len` and `in_frame`
give the same step (10_state.md R30). -/
def Obligations.UnreadInputsHaveNoEffect : Prop :=
  ∀ (c : Config) (rst inValid : Bool) (l l' : BitVec c.lenW) (f f' : FrameBits) (ps : List (PortSample c.lenW))
    (n : Nat) (r : Option (Regs c.outW)), rst = true ∨ inValid = false →
    step ⟨c, ⟨rst, inValid, l, f⟩ :: ps, n, r⟩ = step ⟨c, ⟨rst, inValid, l', f'⟩ :: ps, n, r⟩

/-! ## Runs -/

/-- `n` steps of the machine are the edge function folded over the `n` port samples. Where the registers hold values the
edge function is that of 10_state.md R33. THE MODEL'S CHOICE (log 3): where they hold none, an edge with `rst = 0` gives
them none. -/
def Obligations.RunFoldsTheEdgeFunction : Prop :=
  ∀ (s : State) (n : Nat), s.cfg.legal = true → Sys2Proof.core.run n s = .next (s.after n)

/-- The results that any number of edges present are DECODE's results of the accepted frames, one each, in arrival
order; a result is in the registers right after its acceptance edge and stays there, with `out_valid = 0`, until the next
acceptance or reset (20_memory.md R61). -/
def Obligations.ResultsLeaveInArrivalOrder : Prop :=
  (∀ (s : State) (n : Nat), s.cfg.legal = true → s.regs.isSome = true →
    presentedResults n s =
      ((s.samples n).filter PortSample.accepted).map fun p => ⟨s.cfg, decodeFrame s.cfg p.delivery⟩) ∧
  ∀ (c : Config) (p : PortSample c.lenW) (ps : List (PortSample c.lenW)) (n : Nat) (r : Regs c.outW),
    c.legal = true →
    (p.accepted = true → step ⟨c, p :: ps, n, some r⟩ = .next ⟨c, ps, n + 1, some (acceptedRegs c p.delivery)⟩) ∧
    (p.rst = false → p.inValid = false →
      step ⟨c, p :: ps, n, some r⟩ = .next ⟨c, ps, n + 1, some { r with valid := false }⟩)

/-- The registers after an acceptance cycle depend on the presented frame alone: not on the registers before it, not on
how many cycles have passed, not on what is presented later (43_frame_decode.md R157). -/
def Obligations.ResultDependsOnlyOnItsFrame : Prop :=
  ∀ (c : Config) (p : PortSample c.lenW), c.legal = true → p.accepted = true →
    ∃ q : Regs c.outW, ∀ (ps : List (PortSample c.lenW)) (n : Nat) (r : Regs c.outW),
      step ⟨c, p :: ps, n, some r⟩ = .next ⟨c, ps, n + 1, some q⟩

/-- Which input bytes a frame's result depends on (20_memory.md R59): none for an empty frame, the leading byte alone
for one that fails a gate, and every one of the 29 for the others. -/
def Obligations.ResultReadsOnlyNeededBytes : Prop :=
  (∀ (s : State) (d d' : Delivery), d.len = 0 → d'.len = 0 → exec (.decodeD1 d) s = exec (.decodeD1 d') s) ∧
  (∀ (s : State) (d d' : Delivery), d.len = d'.len → d.frame[0] = d'.frame[0] →
    (1 ≤ d.len ∧ d.frame[0] ≠ s.cfg.syncByte) ∨ d.len ≠ 29 → exec (.decodeD1 d) s = exec (.decodeD1 d') s) ∧
  (∀ (c : Config) (i : Fin 29), c.legal = true →
    ∃ f f' : Frame, f[0] = c.syncByte ∧ (∀ j : Fin 29, j ≠ i → f[j] = f'[j]) ∧
      decodeFrame c ⟨29, f⟩ ≠ decodeFrame c ⟨29, f'⟩)

/-- The fractional-bit counts change no output bit: a run of the same frames in a build with other counts has the same
registers (41_field_extract.md R122). -/
def Obligations.FractionalBitsChangeNoOutput : Prop :=
  ∀ (s t : State) (rot pos : Nat), rot ≤ 23 → pos ≤ 23 →
    (step s = .next t → step (s.withFracs rot pos) = .next (t.withFracs rot pos)) ∧
    ∀ i : Instr, exec i s = .next t → exec i (s.withFracs rot pos) = .next (t.withFracs rot pos)

/-! ## The invariant of the output registers -/

/-- Every step keeps the output registers coherent: under VALID derived from the bytes of `out_raw`, which carry the
sync byte and a valid checksum, and zero under any other status (43_frame_decode.md R152, R153, R158; 41_field_extract.md
R120). -/
def Obligations.EveryStepKeepsOutputsCoherent : Prop :=
  ∀ s t : State, s.Inv → step s = .next t → t.Inv

/-- The invariant holds right after reset. -/
def Obligations.ResetOutputsAreCoherent : Prop := State.reset.Inv

/-- In every VALID result, extracting the fields from the bytes of `out_raw` gives the field registers
(41_field_extract.md R120). -/
def Obligations.ValidResultRederivesFromRaw : Prop :=
  ∀ (d : Delivery) (s t : State) (r : Regs t.cfg.outW), exec (.decodeD1 d) s = .next t → t.regs = some r →
    r.status = .valid → r.toFields = extractFields t.cfg (unpackFrame r.raw)

/-! ## The extractors -/

/-- EXT_SFIX24: the value and every bit of the result (41_field_extract.md R101). -/
def Obligations.Sfix24IsTwosComplement : Prop :=
  ∀ (w F : Nat) (b0 b1 b2 : Byte), 24 ≤ w → w ≤ 64 → F ≤ 23 →
    (extSfix24 w b0 b1 b2 F).toInt =
      (if b0.toNat * 2 ^ 16 + b1.toNat * 2 ^ 8 + b2.toNat < 2 ^ 23
        then ((b0.toNat * 2 ^ 16 + b1.toNat * 2 ^ 8 + b2.toNat : Nat) : Int)
        else ((b0.toNat * 2 ^ 16 + b1.toNat * 2 ^ 8 + b2.toNat : Nat) : Int) - 2 ^ 24) ∧
    (∀ i < 24, (extSfix24 w b0 b1 b2 F).getLsbD i = (b0.toNat * 2 ^ 16 + b1.toNat * 2 ^ 8 + b2.toNat).testBit i) ∧
    (∀ i, 24 ≤ i → i < w → (extSfix24 w b0 b1 b2 F).getLsbD i = b0.getLsbD 7)

/-- The sign comes from the first byte alone; a reading that gives every byte a sign is another function
(41_field_extract.md R104). -/
def Obligations.SignIsNotTakenByteByByte : Prop :=
  (∀ (w F : Nat) (b0 b1 b2 : Byte), 24 ≤ w → w ≤ 64 → F ≤ 23 →
    (extSfix24 w b0 b1 b2 F).toInt = b0.toInt * 2 ^ 16 + b1.toNat * 2 ^ 8 + b2.toNat) ∧
  (extSfix24 32 0x00 0x80 0x00 15).toInt = 32768 ∧ fixVal 15 (extSfix24 32 0x00 0x80 0x00 15) = 1 ∧
  (0x00 : Byte).toInt * 2 ^ 16 + (0x80 : Byte).toInt * 2 ^ 8 + (0x00 : Byte).toInt = -32768

/-- The values that a fixed-point field can stand for are the multiples of `2^-F` in `[-2^(23-F), 2^(23-F) - 2^-F]`
(41_field_extract.md R102). -/
def Obligations.FixedPointValueRange : Prop :=
  ∀ (w F : Nat) (v : Rat), 24 ≤ w → w ≤ 64 → F ≤ 23 →
    ((∃ b0 b1 b2 : Byte, fixVal F (extSfix24 w b0 b1 b2 F) = v) ↔
      (∃ m : Int, v = (m : Rat) / (2 ^ F : Nat)) ∧ -((2 ^ (23 - F) : Nat) : Rat) ≤ v ∧
        v ≤ ((2 ^ (23 - F) : Nat) : Rat) - 1 / (2 ^ F : Nat))

/-- Encoding a value in range and extracting it gives the value back (41_field_extract.md R121). -/
def Obligations.FixedPointRoundTrip : Prop :=
  ∀ w F : Nat, 24 ≤ w → w ≤ 64 → F ≤ 23 →
    (∀ (v : Rat) (u : Word24), encSfix24 F v = some u →
      fixVal F (extSfix24 w (highByte u) (midByte u) (lowByte u) F) = v) ∧
    (∀ m : Int, -2 ^ 23 ≤ m → m ≤ 2 ^ 23 - 1 →
      encSfix24 F ((m : Rat) / (2 ^ F : Nat)) = some (BitVec.ofInt 24 m))

/-- Every value of a fixed-point field is exactly representable in binary32 and in binary64 (41_field_extract.md
R103). -/
def Obligations.ValuesAreExactFloats : Prop :=
  ∀ (w F : Nat) (b0 b1 b2 : Byte), 24 ≤ w → w ≤ 64 → F ≤ 23 →
    Binary32 (fixVal F (extSfix24 w b0 b1 b2 F)) ∧ Binary64 (fixVal F (extSfix24 w b0 b1 b2 F))

/-- The unsigned extractors are the big-endian values of their bytes (41_field_extract.md R106, R107; 20_memory.md
R51). -/
def Obligations.UnsignedExtractorsAreBigEndian : Prop :=
  ∀ b0 b1 b2 : Byte,
    (extU8 b0).toNat = b0.toNat ∧ (extU16 b0 b1).toNat = b0.toNat * 2 ^ 8 + b1.toNat ∧
    (extU8 b0).toNat = uintBytes [b0] ∧ (extU16 b0 b1).toNat = uintBytes [b0, b1] ∧
    (uint24 b0 b1 b2).toNat = uintBytes [b0, b1, b2]

/-- The trailing bytes reach no output but `out_raw`, and the spare bytes none but `out_spare` and `out_raw`, beside the
checksum verdict (30_encoding.md R67, R72). -/
def Obligations.SpareAndTrailingBytesReachNoOtherField : Prop :=
  ∀ (c : Config) (f : Frame) (b : Byte),
    (∀ (i : Nat) (h : i < 29), 26 ≤ i →
      extractFields c (f.set i b h) = { extractFields c f with raw := packFrame (f.set i b h) }) ∧
    (∀ (i : Nat) (h : i < 29), 23 ≤ i → i ≤ 24 →
      extractFields c (f.set i b h) =
        { extractFields c f with
          spare := extU16 (f.set i b h)[23] (f.set i b h)[24]
          raw := packFrame (f.set i b h) })

/-! ## The checksum -/

/-- Masking after every subtraction is masking once at the end (42_checksum.md R132). -/
def Obligations.ChecksumClosedForm : Prop :=
  ∀ (c : Config) (f : Frame) (k : Nat), k = 2 ∨ k = 8 → c.csumMask.toNat = 2 ^ k - 1 →
    byteSum f ≤ 7395 ∧
    ((csumAcc c f).toNat : Int) = ((c.csumInit.toNat : Int) - byteSum f) % 2 ^ k ∧
    (csumOk c f = true ↔ byteSum f % 2 ^ k = c.csumInit.toNat % 2 ^ k)

/-- The default mode reads the two low bits of the sum, the full-byte mode all eight; what passes the second passes the
first and not the reverse (42_checksum.md R133, R134). -/
def Obligations.ChecksumModes : Prop :=
  (∀ (c : Config) (f : Frame), c.csumMask = 0x03 → c.csumInit = 0x40 → (csumOk c f = true ↔ byteSum f % 4 = 0)) ∧
  (∀ (c : Config) (f : Frame), c.csumMask = 0xFF → c.csumInit = 0x40 →
    (csumOk c f = true ↔ byteSum f % 256 = 0x40)) ∧
  (∀ f : Frame, csumOk Config.fullByte f = true → csumOk Config.fdx f = true) ∧
  ∃ f : Frame, csumOk Config.fdx f = true ∧ csumOk Config.fullByte f = false

/-- Flipping bit `j` of byte `i`: in the default mode always detected for `j < 2` and never for `j ≥ 2`, in the full-byte
mode always detected (42_checksum.md R135). -/
def Obligations.SingleBitFlipDetection : Prop :=
  ∀ (c : Config) (f : Frame) (i j : Nat) (hi : i < 29), j < 8 →
    ((byteSum (f.set i (f[i] ^^^ BitVec.twoPow 8 j) hi) : Int) = byteSum f + 2 ^ j ∨
      (byteSum (f.set i (f[i] ^^^ BitVec.twoPow 8 j) hi) : Int) = byteSum f - 2 ^ j) ∧
    (c.csumMask = 0x03 → j < 2 → csumOk c f = true →
      csumOk c (f.set i (f[i] ^^^ BitVec.twoPow 8 j) hi) = false) ∧
    (c.csumMask = 0x03 → 2 ≤ j → csumOk c (f.set i (f[i] ^^^ BitVec.twoPow 8 j) hi) = csumOk c f) ∧
    (c.csumMask = 0xFF → csumOk c f = true → csumOk c (f.set i (f[i] ^^^ BitVec.twoPow 8 j) hi) = false)

/-- A frame whose byte 25 is set as `cs=auto` says passes in both modes (42_checksum.md R139; 30_encoding.md R76). -/
def Obligations.AutoChecksumPassesBothModes : Prop :=
  ∀ (c : Config) (f : Frame),
    (autoChecksum c f).toNat =
      (((c.csumInit.toNat : Int) - ((f.toList.map BitVec.toNat).sum - f[25].toNat : Int)) % 256).toNat ∧
    byteSum (f.set 25 (autoChecksum c f)) % 256 = c.csumInit.toNat ∧
    csumOk { c with csumMask := 0x03 } (f.set 25 (autoChecksum c f)) = true ∧
    csumOk { c with csumMask := 0xFF } (f.set 25 (autoChecksum c f)) = true

/-! ## Encoding -/

/-- Decoding what a well-formed operation encodes to: DECODE_D1 comes back whole (30_encoding.md R70), SYNC_CHECK too
where its frame is empty or not recognised, and every sub-operation of a recognised frame comes back as the DECODE_D1 of
the same frame. THE MODEL'S CHOICE (log 6): that such a frame, whose leading byte selects no operation (R71) or which has
none (40_recognition.md R93), decodes to SYNC_CHECK, and that a word which 15 rows match (R74) decodes to DECODE_D1. -/
def Obligations.DecodeInvertsEncode : Prop :=
  ∀ (c : Config) (d : Delivery) (i : Instr),
    ((Instr.decodeD1 d).wellFormed c = true →
      decode c (encode (.decodeD1 d)).1 (encode (.decodeD1 d)).2 = .decodeD1 d) ∧
    (d.len = 0 ∨ d.frame[0] ≠ c.syncByte →
      decode c (encode (.syncCheck d)).1 (encode (.syncCheck d)).2 = .syncCheck d) ∧
    (i.wellFormed c = true → i.delivery.selectsD1 c = true →
      decode c (encode i).1 (encode i).2 = .decodeD1 i.delivery)

/-- Encoding what was decoded gives back the length and all 232 bits; the decoded operation is well formed for a length
that the port can carry. -/
def Obligations.EncodeInvertsDecode : Prop :=
  ∀ (c : Config) (len : Nat) (w : FrameBits),
    encode (decode c len w) = (len, w) ∧ (len < 2 ^ c.lenW → (decode c len w).wellFormed c = true)

/-- A frame written in the field notation decodes to its fields, each in its register, sign-extended or as it is
(30_encoding.md R66, R69, R75). -/
def Obligations.AssembledFrameDecodesToItsFields : Prop :=
  ∀ (a : FieldFrame) (s : State) (r : Regs s.cfg.outW), s.cfg.legal = true → s.regs = some r →
    a.cs = .auto ∨ csumOk s.cfg (a.assemble s.cfg) = true →
    exec (.decodeD1 ⟨29, a.assemble s.cfg⟩) s = .next (s.withRegs
      { valid := true
        status := .valid
        cameraId := a.cam
        pan := a.pan.signExtend s.cfg.outW
        tilt := a.tilt.signExtend s.cfg.outW
        roll := a.roll.signExtend s.cfg.outW
        posX := a.x.signExtend s.cfg.outW
        posY := a.y.signExtend s.cfg.outW
        posZ := a.z.signExtend s.cfg.outW
        zoom := a.zoom
        focus := a.focus
        spare := a.spare
        checksum := match a.cs with
          | .given b => b
          | .auto => autoChecksum s.cfg (a.layout s.cfg 0)
        raw := packFrame (a.assemble s.cfg) })

/-- The words of the frames A and N of 95_test_vectors.md, written out as bus words, decode to operations on their 29
bytes: A to DECODE_D1 (30_encoding.md R70), N to SYNC_CHECK. THE MODEL'S CHOICE: that a frame which is not recognised
decodes to SYNC_CHECK (log 6), and that a word is read with the length 29, which its bits do not carry (log 8). -/
def Obligations.WrittenFramesDecode : Prop :=
  decodeTableWord 232 0x000000D5000056341200EE0200F40100FA0000000F00000A00000501D1 =
    some (.decodeD1 ⟨29, #v[0xD1, 0x01, 0x05, 0x00, 0x00, 0x0A, 0x00, 0x00, 0x0F, 0x00, 0x00, 0x00, 0xFA, 0x00, 0x01,
      0xF4, 0x00, 0x02, 0xEE, 0x00, 0x12, 0x34, 0x56, 0x00, 0x00, 0xD5, 0x00, 0x00, 0x00]⟩) ∧
  decodeTableWord 232 0x000000D5000056341200EE0200F40100FA0000000F00000A0000050100 =
    some (.syncCheck ⟨29, #v[0x00, 0x01, 0x05, 0x00, 0x00, 0x0A, 0x00, 0x00, 0x0F, 0x00, 0x00, 0x00, 0xFA, 0x00, 0x01,
      0xF4, 0x00, 0x02, 0xEE, 0x00, 0x12, 0x34, 0x56, 0x00, 0x00, 0xD5, 0x00, 0x00, 0x00]⟩)

/-- Which rows of the opcode table a leading byte selects: all 16 for `SYNC_BYTE`, SYNC_CHECK alone for the other 255
values (30_encoding.md R70, R71, R74). -/
def Obligations.RowsSelectedByLeadingByte : Prop :=
  ∀ (c : Config) (d : Delivery),
    (d.frame[0] = c.syncByte →
      selectedOps c d = [.decodeD1 d, .syncCheck d, .lenCheck d, .csumCheck d, .cameraId d, .pan d, .tilt d, .roll d,
        .posX d, .posY d, .posZ d, .zoom d, .focus d, .spare d, .checksum d, .raw d]) ∧
    (d.frame[0] ≠ c.syncByte → selectedOps c d = [.syncCheck d])

/-! ## The framer, the consumer, the source's state machine -/

/-- Whatever bytes a framer that keeps its duties delivers, and whatever it drives on the unused lanes: an empty delivery
and one with another leading byte are NOT_RECOGNIZED, every wrong length is BAD_LENGTH in every build, and a delivery of
29 bytes reaches FDX whole (60_exceptions.md R181; 40_recognition.md R92, R93). -/
def Obligations.FramerSaturationKeepsWrongLengthsWrong : Prop :=
  ∀ (c : Config) (bytes : List Byte) (unused : Frame) (ps : List (PortSample c.lenW)) (n : Nat) (r : Regs c.outW),
    c.legal = true →
    (bytes.head? ≠ some c.syncByte →
      step ⟨c, presentBytes c.lenW bytes unused :: ps, n, some r⟩ = .next ⟨c, ps, n + 1, some
        { toFields := Fields.zero c.outW, valid := true, status := .notRecognized }⟩) ∧
    (bytes.head? = some c.syncByte → bytes.length ≠ 29 →
      step ⟨c, presentBytes c.lenW bytes unused :: ps, n, some r⟩ = .next ⟨c, ps, n + 1, some
        { toFields := Fields.zero c.outW, valid := true, status := .badLength }⟩) ∧
    (bytes.length = 29 →
      (presentBytes c.lenW bytes unused).delivery.len = 29 ∧
        (presentBytes c.lenW bytes unused).delivery.frame.toList = bytes)

/-- After an edge the consumer takes a record exactly when the edge accepted a VALID frame, and the record is that
frame's; it counts BAD_LENGTH and CHECKSUM_INVALID as errors and NOT_RECOGNIZED not (60_exceptions.md R181, R182). -/
def Obligations.ConsumerRecordsOnlyValidFrames : Prop :=
  (∀ s t : State, s.regs.isSome = true → step s = .next t →
    (s.sample.accepted = true → outcome t.cfg s.sample.delivery = .valid →
      takeRecord t = .ok (some (extractFields t.cfg s.sample.delivery.frame))) ∧
    (s.sample.accepted = false ∨ outcome t.cfg s.sample.delivery ≠ .valid → takeRecord t = .ok none)) ∧
  ∀ st : Status, st.isError = true ↔ st = .badLength ∨ st = .checksumInvalid

/-- The terminal states of the source's machine are FDX's outcomes: `Valid` is VALID, `Invalid` after `AwaitingSync` is
NOT_RECOGNIZED, `Invalid` after `Decoding` is BAD_LENGTH or CHECKSUM_INVALID (40_recognition.md R95). -/
def Obligations.SourceStatesEndAsOutcomes : Prop :=
  ∀ (c : Config) (d : Delivery),
    (phases c d = [.awaitingSync, .invalid] ↔ outcome c d = .notRecognized) ∧
    (phases c d = [.awaitingSync, .decoding, .invalid] ↔
      outcome c d = .badLength ∨ outcome c d = .checksumInvalid) ∧
    (phases c d = [.awaitingSync, .decoding, .valid] ↔ outcome c d = .valid)
end

