-- ==== Sys2Proof/Laws/Decode.lean ====
section
/-! SUPPORT. The lane map is one to one, and what the decoder can answer. -/

namespace Sys2Proof

@[simp] theorem unpackFrame_getElem (w : FrameBits) (i : Nat) (h : i < 29) : (unpackFrame w)[i] = laneByte w i := by
  simp [unpackFrame]

theorem lanesToNat_lt (bs : List Byte) : lanesToNat bs < 256 ^ bs.length := by
  induction bs with
  | nil => simp [lanesToNat]
  | cons b bs ih =>
    have := b.isLt
    simp only [lanesToNat, List.length_cons, Nat.pow_succ]
    omega

/-- Digit `i` of a byte sequence read as a base-256 number is its byte `i`. -/
theorem lanesToNat_digit (bs : List Byte) (i : Nat) (h : i < bs.length) :
    lanesToNat bs / 256 ^ i % 256 = bs[i].toNat := by
  induction bs generalizing i with
  | nil => simp at h
  | cons b bs ih =>
    have hb := b.isLt
    cases i with
    | zero => simp only [lanesToNat, Nat.pow_zero, Nat.div_one, List.getElem_cons_zero]; omega
    | succ i =>
      simp only [lanesToNat, List.getElem_cons_succ]
      rw [Nat.pow_succ, Nat.mul_comm (256 ^ i), ← Nat.div_div_eq_div_mul,
        show (b.toNat + 256 * lanesToNat bs) / 256 = lanesToNat bs by omega]
      exact ih i (by simpa using h)

/-- `B[i]` is on lane `i` of the bus (20_memory.md R52). -/
@[simp] theorem laneByte_packFrame (f : Frame) (i : Nat) (h : i < 29) : laneByte (packFrame f) i = f[i] := by
  apply BitVec.eq_of_toNat_eq
  have hl := lanesToNat_lt f.toList
  rw [Vector.length_toList] at hl
  have hd := lanesToNat_digit f.toList i (by simpa using h)
  rw [Vector.getElem_toList] at hd
  have hm : (packFrame f).toNat = lanesToNat f.toList := by
    rw [packFrame, BitVec.toNat_ofNat]
    exact Nat.mod_eq_of_lt (by simpa using hl)
  rw [laneByte, BitVec.extractLsb'_toNat, hm, Nat.shiftRight_eq_div_pow, Nat.pow_mul]
  exact hd

@[simp] theorem unpackFrame_packFrame (f : Frame) : unpackFrame (packFrame f) = f := by
  ext i h
  simp [h]

/-- Two bus words with the same 29 lanes are the same word. -/
theorem eq_of_laneBytes_eq {w v : FrameBits} (h : ∀ i < 29, laneByte w i = laneByte v i) : w = v := by
  apply BitVec.eq_of_getLsbD_eq
  intro k hk
  have hb := congrArg (fun b : Byte => b.getLsbD (k % 8)) (h (k / 8) (by omega))
  simpa [laneByte, BitVec.getLsbD_extractLsb', Nat.mod_lt, Nat.div_add_mod] using hb

@[simp] theorem packFrame_unpackFrame (w : FrameBits) : packFrame (unpackFrame w) = w :=
  eq_of_laneBytes_eq fun i h => by simp [h]

/-- The decoder answers DECODE_D1 or SYNC_CHECK, on the delivery it was given. -/
theorem decodeDelivery_cases (c : Config) (d : Delivery) :
    (decodeDelivery c d = .decodeD1 d ∧ 1 ≤ d.len ∧ d.frame[0] = c.syncByte) ∨
      (decodeDelivery c d = .syncCheck d ∧ (d.len = 0 ∨ d.frame[0] ≠ c.syncByte)) := by
  have hm : d.frame[0] &&& (0xFF : Byte) = d.frame[0] := BitVec.and_allOnes
  unfold decodeDelivery
  rw [hm]
  split
  · exact .inl ⟨rfl, ‹_›⟩
  · rename_i h
    refine .inr ⟨rfl, ?_⟩
    by_cases h0 : d.len = 0
    · exact .inl h0
    · exact .inr fun hs => h ⟨by omega, hs⟩

/-- What is decoded from what an operation's frame encodes to. -/
theorem decode_encode_eq (c : Config) (i : Instr) :
    decode c (encode i).1 (encode i).2 = decodeDelivery c i.delivery := by
  simp [decode, encode]

end Sys2Proof
end

