-- ==== Sys2Proof/Laws/State.lean ====
section
/-! SUPPORT. One lemma per field per update of the state, so that no proof unfolds a record update. -/

namespace Sys2Proof.Machine

variable (s : State)

@[simp] theorem State.advance_cfg : s.advance.cfg = s.cfg := rfl
@[simp] theorem State.advance_inputs : s.advance.inputs = s.inputs.tail := rfl
@[simp] theorem State.advance_cycle : s.advance.cycle = s.cycle + 1 := rfl
@[simp] theorem State.advance_regs : s.advance.regs = s.regs := rfl

@[simp] theorem State.withRegs_cfg (r : Regs s.cfg.outW) : (s.withRegs r).cfg = s.cfg := rfl
@[simp] theorem State.withRegs_inputs (r : Regs s.cfg.outW) : (s.withRegs r).inputs = s.inputs := rfl
@[simp] theorem State.withRegs_cycle (r : Regs s.cfg.outW) : (s.withRegs r).cycle = s.cycle := rfl
@[simp] theorem State.withRegs_regs (r : Regs s.cfg.outW) : (s.withRegs r).regs = some r := rfl

@[simp] theorem State.updateRegs_cfg (g : Regs s.cfg.outW → Regs s.cfg.outW) : (s.updateRegs g).cfg = s.cfg := rfl
@[simp] theorem State.updateRegs_inputs (g : Regs s.cfg.outW → Regs s.cfg.outW) :
    (s.updateRegs g).inputs = s.inputs := rfl
@[simp] theorem State.updateRegs_cycle (g : Regs s.cfg.outW → Regs s.cfg.outW) :
    (s.updateRegs g).cycle = s.cycle := rfl
@[simp] theorem State.updateRegs_regs (g : Regs s.cfg.outW → Regs s.cfg.outW) :
    (s.updateRegs g).regs = s.regs.map g := rfl

@[simp] theorem State.report_cfg (st : Status) : (s.report st).cfg = s.cfg := rfl
@[simp] theorem State.report_inputs (st : Status) : (s.report st).inputs = s.inputs := rfl
@[simp] theorem State.report_cycle (st : Status) : (s.report st).cycle = s.cycle := rfl
@[simp] theorem State.report_regs (st : Status) : (s.report st).regs = s.regs.map fun r => r.report st := rfl

@[simp] theorem State.resetEdge_cfg : s.resetEdge.cfg = s.cfg := rfl
@[simp] theorem State.resetEdge_inputs : s.resetEdge.inputs = s.inputs := rfl
@[simp] theorem State.resetEdge_cycle : s.resetEdge.cycle = s.cycle := rfl
@[simp] theorem State.resetEdge_regs : s.resetEdge.regs = some (Regs.reset s.cfg.outW) := rfl

@[simp] theorem State.idleEdge_cfg : s.idleEdge.cfg = s.cfg := rfl
@[simp] theorem State.idleEdge_inputs : s.idleEdge.inputs = s.inputs := rfl
@[simp] theorem State.idleEdge_cycle : s.idleEdge.cycle = s.cycle := rfl
@[simp] theorem State.idleEdge_regs : s.idleEdge.regs = s.regs.map fun r => { r with valid := false } := rfl

@[simp] theorem State.after_cfg (n : Nat) : (s.after n).cfg = s.cfg := rfl
@[simp] theorem State.after_inputs (n : Nat) : (s.after n).inputs = s.inputs.drop n := rfl
@[simp] theorem State.after_cycle (n : Nat) : (s.after n).cycle = s.cycle + n := rfl

@[simp] theorem State.withFracs_regs (a b : Nat) : (s.withFracs a b).regs = s.regs := rfl
@[simp] theorem State.withFracs_inputs (a b : Nat) : (s.withFracs a b).inputs = s.inputs := rfl
@[simp] theorem State.withFracs_cycle (a b : Nat) : (s.withFracs a b).cycle = s.cycle := rfl
@[simp] theorem State.withFracs_cfg (a b : Nat) :
    (s.withFracs a b).cfg = { s.cfg with fracRot := a, fracPos := b } := rfl

@[simp] theorem State.withFetchWord_cfg (nbits w : Nat) : (s.withFetchWord nbits w).cfg = s.cfg := rfl
@[simp] theorem State.withFetchWord_regs (nbits w : Nat) : (s.withFetchWord nbits w).regs = s.regs := rfl
@[simp] theorem State.withFetchWord_cycle (nbits w : Nat) : (s.withFetchWord nbits w).cycle = s.cycle := rfl

section Registers

variable {w : Nat} (r : Regs w) (st : Status)

@[simp] theorem Regs.report_valid : (r.report st).valid = true := rfl
@[simp] theorem Regs.report_status : (r.report st).status = st := rfl
@[simp] theorem Regs.report_fields :
    (r.report st).toFields = if st = .valid then r.toFields else Fields.zero w := rfl
@[simp] theorem Regs.reset_valid : (Regs.reset w).valid = false := rfl
@[simp] theorem Regs.reset_status : (Regs.reset w).status = .notRecognized := rfl
@[simp] theorem Regs.reset_fields : (Regs.reset w).toFields = Fields.zero w := rfl

end Registers

@[simp] theorem acceptedRegs_valid (c : Config) (d : Delivery) : (acceptedRegs c d).valid = true := rfl
@[simp] theorem acceptedRegs_status (c : Config) (d : Delivery) :
    (acceptedRegs c d).status = (decodeFrame c d).1 := rfl
@[simp] theorem acceptedRegs_fields (c : Config) (d : Delivery) :
    (acceptedRegs c d).toFields = (decodeFrame c d).2 := rfl

end Sys2Proof.Machine
end

