-- ==== Sys2Proof/Laws/Ops.lean ====
section
/-! SUPPORT. What each shared operation can do, said once. -/

namespace Sys2Proof.Machine

/-- A legal build has frames of 29 bytes (00_scope.md R9). -/
theorem frameLen_of_legal {c : Config} (h : c.legal = true) : c.frameLen = 29 := (of_decide_eq_true h).1

/-- A legal build's mask is the 2-bit or the full-byte one (00_scope.md R9). -/
theorem csumMask_of_legal {c : Config} (h : c.legal = true) : c.csumMask = 0x03 ∨ c.csumMask = 0xFF :=
  (of_decide_eq_true h).2.2.2.1

/-- All that an operation guarded by the build's legality can answer. -/
theorem onBuild_eq_next_iff {s t u : State} : onBuild s t = .next u ↔ s.cfg.legal = true ∧ t = u := by
  unfold onBuild
  split
  · exact ⟨fun h => ⟨‹_›, by simpa using h⟩, fun h => by rw [h.2]⟩
  · exact ⟨fun h => (nomatch h), fun h => absurd h.1 ‹_›⟩

@[simp] theorem onBuild_of_legal {s : State} (h : s.cfg.legal = true) (t : State) : onBuild s t = .next t := if_pos h

@[simp] theorem onBuild_of_illegal {s : State} (h : s.cfg.legal = false) (t : State) :
    onBuild s t = .refused .illegalBuild := if_neg (by simp [h])

@[simp] theorem thenAdvance_next (s : State) : thenAdvance (.next s) = .next s.advance := rfl
@[simp] theorem thenAdvance_fault (r : Fault) : thenAdvance (.fault r) = .fault r := rfl
@[simp] theorem thenAdvance_refused (r : Refusal) : thenAdvance (.refused r) = .refused r := rfl

/-- Writing the register set that the state holds changes nothing. -/
theorem State.with_regs_self {s : State} {r : Option (Regs s.cfg.outW)} (h : s.regs = r) :
    { s with regs := r } = s := by
  subst h
  rfl

/-- Registers that hold no value hold none after a write. -/
theorem State.updateRegs_of_none {s : State} (h : s.regs = none) (g : Regs s.cfg.outW → Regs s.cfg.outW) :
    s.updateRegs g = s :=
  State.with_regs_self (by rw [h]; rfl)

/-- A write of registers that hold values. -/
theorem State.updateRegs_of_some {s : State} {r : Regs s.cfg.outW} (h : s.regs = some r)
    (g : Regs s.cfg.outW → Regs s.cfg.outW) : s.updateRegs g = s.withRegs (g r) := by
  rw [State.updateRegs, h]
  rfl

/-- The three edges of a legal build (10_state.md R33). -/
theorem step_of_legal {s : State} (h : s.cfg.legal = true) :
    step s = if s.sample.rst then .next s.resetEdge.advance
      else if s.sample.inValid then thenAdvance (exec s.fetched s) else .next s.idleEdge.advance := if_pos h

theorem step_of_illegal {s : State} (h : s.cfg.legal = false) : step s = .refused .illegalBuild := if_neg (by simp [h])

/-- The sample of a listed edge. -/
@[simp] theorem State.sample_of_cons (c : Config) (p : PortSample c.lenW) (ps : List (PortSample c.lenW)) (n : Nat)
    (r : Option (Regs c.outW)) : (State.mk c (p :: ps) n r).sample = p := rfl

/-- The sample of an edge past the schedule is free. -/
@[simp] theorem State.sample_of_nil (c : Config) (n : Nat) (r : Option (Regs c.outW)) :
    (State.mk c [] n r).sample = freeSample c.lenW n := rfl

/-- The `k`-th coming sample after one edge is the `k+1`-st before it. -/
theorem State.sampleAt_advance (s : State) (k : Nat) : s.advance.sampleAt k = s.sampleAt (k + 1) := by
  obtain ⟨c, i, n, r⟩ := s
  change i.tail[k]?.getD (freeSample c.lenW (n + 1 + k)) = i[k + 1]?.getD (freeSample c.lenW (n + (k + 1)))
  rw [show n + 1 + k = n + (k + 1) by omega]
  cases i <;> simp

/-- A run whose first step gives a next state. -/
theorem run_succ {M : Host.Core} {n : Nat} {s t : M.State} (h : M.step s = .next t) : M.run (n + 1) s = M.run n t := by
  simp [Host.Core.run, h]

/-- A run of FDX whose first edge gives a next state. -/
theorem core_run_succ {n : Nat} {s t : State} (h : step s = .next t) :
    Sys2Proof.core.run (n + 1) s = Sys2Proof.core.run n t :=
  run_succ (M := Sys2Proof.core) h

/-- An observation whose first edge gives a next state. -/
theorem observe_succ {n : Nat} {s t : State} (h : step s = .next t) :
    observe (n + 1) s = ⟨t.cfg, t.regs⟩ :: observe n t := by
  simp [observe, h]

/-- The next `n + 1` samples are the next one and the `n` after it. -/
theorem State.samples_succ (s : State) (n : Nat) : s.samples (n + 1) = s.sample :: s.advance.samples n := by
  simp only [State.samples, List.range_succ_eq_map, List.map_cons, List.map_map]
  exact congrArg (s.sample :: ·) (List.map_congr_left fun j _ => (State.sampleAt_advance s j).symm)

end Sys2Proof.Machine
end

