-- ==== Sys2Proof/Laws/Outcome.lean ====
section
/-! SUPPORT. The four cases of a frame's outcome (43_frame_decode.md R150), and that DECODE's result is the outcome with
the fields that go with it. -/

namespace Sys2Proof.Machine

variable {c : Config} {d : Delivery}

/-- A frame is not recognised when it has no byte or another leading byte. -/
theorem recognised_eq_false_iff : recognised c d = false ↔ d.len = 0 ∨ d.frame[0] ≠ c.syncByte := by
  by_cases h : d.len = 0 <;> simp [recognised, Nat.one_le_iff_ne_zero, h]

theorem recognised_eq_true_iff : recognised c d = true ↔ 1 ≤ d.len ∧ d.frame[0] = c.syncByte := by
  simp [recognised]

@[simp] theorem lengthOk_eq_true_iff : lengthOk c d = true ↔ d.len = c.frameLen := by simp [lengthOk]

@[simp] theorem lengthOk_eq_false_iff : lengthOk c d = false ↔ d.len ≠ c.frameLen := by simp [lengthOk]

@[simp] theorem csumOk_eq_true_iff {f : Frame} : csumOk c f = true ↔ csumAcc c f = 0 := by simp [csumOk]

@[simp] theorem csumOk_eq_false_iff {f : Frame} : csumOk c f = false ↔ csumAcc c f ≠ 0 := by simp [csumOk]

/-- DECODE's result is the outcome, with the extracted fields under VALID and zero under the others. -/
theorem decodeFrame_eq (c : Config) (d : Delivery) :
    decodeFrame c d =
      (outcome c d, if outcome c d = .valid then extractFields c d.frame else Fields.zero c.outW) := by
  unfold decodeFrame outcome
  cases hr : recognised c d with
  | false => rw [if_pos (recognised_eq_false_iff.mp hr)]; rfl
  | true =>
    have hn : ¬ (d.len = 0 ∨ d.frame[0] ≠ c.syncByte) := fun h => by
      rw [recognised_eq_false_iff.mpr h] at hr
      exact absurd hr (by decide)
    rw [if_neg hn]
    cases hl : lengthOk c d with
    | false => rw [if_pos (lengthOk_eq_false_iff.mp hl)]; rfl
    | true =>
      rw [if_neg (fun h => h (lengthOk_eq_true_iff.mp hl))]
      cases csumOk c d.frame <;> rfl

/-- The four cases of a frame. -/
theorem outcome_cases (c : Config) (d : Delivery) :
    (outcome c d = .notRecognized ∧ recognised c d = false) ∨
    (outcome c d = .badLength ∧ recognised c d = true ∧ lengthOk c d = false) ∨
    (outcome c d = .checksumInvalid ∧ recognised c d = true ∧ lengthOk c d = true ∧ csumOk c d.frame = false) ∨
    (outcome c d = .valid ∧ recognised c d = true ∧ lengthOk c d = true ∧ csumOk c d.frame = true) := by
  unfold outcome
  cases recognised c d <;> cases lengthOk c d <;> cases csumOk c d.frame <;> simp

/-- VALID needs all three checks. -/
theorem outcome_eq_valid_iff :
    outcome c d = .valid ↔ recognised c d = true ∧ lengthOk c d = true ∧ csumOk c d.frame = true := by
  unfold outcome
  cases recognised c d <;> cases lengthOk c d <;> cases csumOk c d.frame <;> simp

end Sys2Proof.Machine
end

