-- ==== Sys2Proof/Laws/Exec.lean ====
section
/-! SUPPORT. All that an operation can do: where it answers a next state, the build is legal and only registers have been
written. -/

namespace Sys2Proof.Machine

/-- A write that keeps every register. -/
@[simp] theorem State.updateRegs_id (s : State) : s.updateRegs id = s :=
  State.with_regs_self (by simp)

/-- Where an operation answers a next state, the build is legal and the state differs by a write of registers. -/
theorem exec_eq_next {i : Instr} {s t : State} (h : exec i s = .next t) :
    s.cfg.legal = true ∧ ∃ g, t = s.updateRegs g := by
  have key : ∀ {u : State}, (u = s ∨ ∃ g, u = s.updateRegs g) → onBuild s u = .next t →
      s.cfg.legal = true ∧ ∃ g, t = s.updateRegs g := by
    intro u hu hn
    obtain ⟨hl, rfl⟩ := onBuild_eq_next_iff.mp hn
    rcases hu with rfl | hg
    · exact ⟨hl, id, (State.updateRegs_id _).symm⟩
    · exact ⟨hl, hg⟩
  cases i with
  | syncCheck d =>
    refine key ?_ h
    split
    · exact .inl rfl
    · exact .inr ⟨_, rfl⟩
  | lenCheck d =>
    refine key ?_ h
    split
    · exact .inr ⟨_, rfl⟩
    · exact .inl rfl
  | csumCheck d =>
    refine key ?_ h
    split
    · exact .inr ⟨_, rfl⟩
    · exact .inl rfl
  | decodeD1 d => exact key (.inr ⟨_, rfl⟩) h
  | cameraId d => exact key (.inr ⟨_, rfl⟩) h
  | pan d => exact key (.inr ⟨_, rfl⟩) h
  | tilt d => exact key (.inr ⟨_, rfl⟩) h
  | roll d => exact key (.inr ⟨_, rfl⟩) h
  | posX d => exact key (.inr ⟨_, rfl⟩) h
  | posY d => exact key (.inr ⟨_, rfl⟩) h
  | posZ d => exact key (.inr ⟨_, rfl⟩) h
  | zoom d => exact key (.inr ⟨_, rfl⟩) h
  | focus d => exact key (.inr ⟨_, rfl⟩) h
  | spare d => exact key (.inr ⟨_, rfl⟩) h
  | checksum d => exact key (.inr ⟨_, rfl⟩) h
  | raw d => exact key (.inr ⟨_, rfl⟩) h

/-- Only a legal build steps. -/
theorem legal_of_step {s t : State} (h : step s = .next t) : s.cfg.legal = true := by
  cases hl : s.cfg.legal with
  | true => rfl
  | false => rw [step_of_illegal hl] at h; exact nomatch h

end Sys2Proof.Machine
end

