-- ==== Sys2Proof/Laws/Operands.lean ====
section
/-! SUPPORT. The assembly of fields as numbers, the split of a 24-bit pattern into bytes, one step of the checksum, and
the byte sum under a write of one byte. -/

namespace Sys2Proof.Machine

theorem uint16_toNat (b0 b1 : Byte) : (uint16 b0 b1).toNat = b0.toNat * 2 ^ 8 + b1.toNat := by
  simp only [uint16, BitVec.toNat_append]
  rw [← Nat.shiftLeft_add_eq_or_of_lt b1.isLt, Nat.shiftLeft_eq]

theorem uint24_toNat (b0 b1 b2 : Byte) : (uint24 b0 b1 b2).toNat = b0.toNat * 2 ^ 16 + b1.toNat * 2 ^ 8 + b2.toNat := by
  simp only [uint24, BitVec.toNat_append]
  rw [← Nat.shiftLeft_add_eq_or_of_lt b2.isLt, ← Nat.shiftLeft_add_eq_or_of_lt b1.isLt, Nat.shiftLeft_eq,
    Nat.shiftLeft_eq]
  omega

/-- `sint_24` is the signed value of the pattern (00_scope.md R12). -/
theorem sint24_eq_toInt (u : Word24) : sint24 u = u.toInt := by
  rw [sint24, BitVec.toInt_eq_toNat_cond]
  split <;> split <;> first | rfl | omega

/-- Sign extension keeps the signed value (00_scope.md R12). -/
theorem sext24_toInt {w : Nat} (h : 24 ≤ w) (u : Word24) : (sext24 w u).toInt = sint24 u := by
  rw [sint24_eq_toInt]
  exact BitVec.toInt_signExtend_of_le h

/-- The three bytes of a pattern, most significant first, assemble to it. -/
@[simp] theorem uint24_bytes (u : Word24) : uint24 (highByte u) (midByte u) (lowByte u) = u := by
  apply BitVec.eq_of_getLsbD_eq
  intro i hi
  simp only [uint24, highByte, midByte, lowByte, BitVec.getLsbD_append, BitVec.getLsbD_extractLsb']
  by_cases h1 : i < 8
  · simp [h1]
  · by_cases h2 : i < 16
    · simp [h1, show i - 8 < 8 by omega, show 8 + (i - 8) = i by omega]
    · simp [h1, show ¬ i - 8 < 8 by omega, show i - 8 - 8 < 8 by omega, show 16 + (i - 8 - 8) = i by omega]

/-- The two bytes of a 16-bit word, most significant first, assemble to it. -/
@[simp] theorem uint16_bytes (z : BitVec 16) : uint16 (z.extractLsb' 8 8) (z.extractLsb' 0 8) = z := by
  apply BitVec.eq_of_getLsbD_eq
  intro i hi
  simp only [uint16, BitVec.getLsbD_append, BitVec.getLsbD_extractLsb']
  by_cases h1 : i < 8
  · simp [h1]
  · simp [h1, show i - 8 < 8 by omega, show 8 + (i - 8) = i by omega]

/-- One checksum step in the default mode (42_checksum.md R130 with `CSUM_MASK = 0x03`). -/
theorem csumStep_default (a b : Byte) : ((csumStep 0x03 a b).toNat : Int) = ((a.toNat : Int) - b.toNat) % 4 := by
  have hm : (0x03 : Byte).toNat = 2 ^ 2 - 1 := rfl
  rw [csumStep, BitVec.toNat_and, hm, Nat.and_two_pow_sub_one_eq_mod, BitVec.toNat_ofInt]
  omega

/-- One checksum step in the full-byte mode (42_checksum.md R130 with `CSUM_MASK = 0xFF`). -/
theorem csumStep_fullByte (a b : Byte) : ((csumStep 0xFF a b).toNat : Int) = ((a.toNat : Int) - b.toNat) % 256 := by
  have hm : (0xFF : Byte) = BitVec.allOnes 8 := rfl
  rw [csumStep, hm, BitVec.and_allOnes, BitVec.toNat_ofInt]
  omega

theorem sum_map_set (l : List Byte) (i : Nat) (b : Byte) (h : i < l.length) :
    ((l.set i b).map BitVec.toNat).sum + l[i].toNat = (l.map BitVec.toNat).sum + b.toNat := by
  induction l generalizing i with
  | nil => exact absurd h (Nat.not_lt_zero i)
  | cons x l ih =>
    cases i with
    | zero => simp; omega
    | succ i =>
      have := ih i (by simpa using h)
      simp only [List.set_cons_succ, List.map_cons, List.sum_cons, List.getElem_cons_succ]
      omega

/-- Writing one byte of a frame moves the byte sum by the difference. -/
theorem byteSum_set (f : Frame) (i : Nat) (b : Byte) (h : i < 29) :
    byteSum (f.set i b h) + f[i].toNat = byteSum f + b.toNat := by
  have := sum_map_set f.toList i b (by simpa using h)
  simpa [byteSum, Vector.toList_set] using this

end Sys2Proof.Machine
end

