-- ==== Sys2Proof/Laws/PerInstr.lean ====
section
/-! SUPPORT. The family EncodingKeepsFrame: what an operation's frame encodes to decodes to an operation on the same
frame, whatever the build (20_memory.md R52, 30_encoding.md R74). -/

namespace Sys2Proof.Laws.EncodingKeepsFrame

/-- Decoding what the operation encodes to gives an operation on the same length and the same 29 bytes. -/
def Statement (i : Instr) : Prop := ∀ c : Config, (decode c (encode i).1 (encode i).2).delivery = i.delivery

theorem all (i : Instr) : Statement i := by
  intro c
  rw [decode_encode_eq]
  rcases decodeDelivery_cases c i.delivery with ⟨h, _⟩ | ⟨h, _⟩ <;> rw [h] <;> rfl

theorem decodeD1 (d : Delivery) : Statement (.decodeD1 d) := all _
theorem syncCheck (d : Delivery) : Statement (.syncCheck d) := all _
theorem lenCheck (d : Delivery) : Statement (.lenCheck d) := all _
theorem csumCheck (d : Delivery) : Statement (.csumCheck d) := all _
theorem cameraId (d : Delivery) : Statement (.cameraId d) := all _
theorem pan (d : Delivery) : Statement (.pan d) := all _
theorem tilt (d : Delivery) : Statement (.tilt d) := all _
theorem roll (d : Delivery) : Statement (.roll d) := all _
theorem posX (d : Delivery) : Statement (.posX d) := all _
theorem posY (d : Delivery) : Statement (.posY d) := all _
theorem posZ (d : Delivery) : Statement (.posZ d) := all _
theorem zoom (d : Delivery) : Statement (.zoom d) := all _
theorem focus (d : Delivery) : Statement (.focus d) := all _
theorem spare (d : Delivery) : Statement (.spare d) := all _
theorem checksum (d : Delivery) : Statement (.checksum d) := all _
theorem raw (d : Delivery) : Statement (.raw d) := all _

end Sys2Proof.Laws.EncodingKeepsFrame
end

