-- ==== Sys2Proof/Tests/Slice0.lean ====
section
/-! SUPPORT. The model's own tests: the vectors of 95_test_vectors.md and the examples of the rules, each about one step
or one operation, and a witness for the hypotheses of every statement of Certificates/Slice0/Obligations.lean. -/

-- One theorem after the other: the kernel evaluations of this file together would ask for too many threads.
set_option Elab.async false

namespace Sys2Proof.Machine.Tests

/-! ## The frames of 95_test_vectors.md, written out as bus words, lane 28 first -/

/-- Frame A. -/
def wordA : FrameBits := 0x000000D5000056341200EE0200F40100FA0000000F00000A00000501D1
/-- Frame B. -/
def wordB : FrameBits := 0x332211CBCDABFFFFFF000080FFFF7FFFFFFF000080FFFFFF0000D37FD1
/-- Frame A1: A with `B[25] = D6`. -/
def wordA1 : FrameBits := 0x000000D6000056341200EE0200F40100FA0000000F00000A00000501D1
/-- Frame D: A with `B[25] = D9`. -/
def wordD : FrameBits := 0x000000D9000056341200EE0200F40100FA0000000F00000A00000501D1
/-- Frame F2: A with `B[7] = 04`. -/
def wordF2 : FrameBits := 0x000000D5000056341200EE0200F40100FA0000000F04000A00000501D1
/-- Frame F0: A with `B[7] = 01`. -/
def wordF0 : FrameBits := 0x000000D5000056341200EE0200F40100FA0000000F01000A00000501D1
/-- Frame N: A with `B[0] = 00`. -/
def wordN : FrameBits := 0x000000D5000056341200EE0200F40100FA0000000F00000A0000050100
/-- `D1`, then 28 zero bytes (K9). -/
def wordK9 : FrameBits := 0xD1

/-- A frame with its length. -/
def frameOf (len : Nat) (w : FrameBits) : Delivery := ⟨len, unpackFrame w⟩

/-- The bytes of frame A in the order of the table, first byte first. -/
def bytesA : Frame := #v[0xD1, 0x01, 0x05, 0x00, 0x00, 0x0A, 0x00, 0x00, 0x0F, 0x00, 0x00, 0x00, 0xFA, 0x00, 0x01, 0xF4,
  0x00, 0x02, 0xEE, 0x00, 0x12, 0x34, 0x56, 0x00, 0x00, 0xD5, 0x00, 0x00, 0x00]

/-- Frame A in the field notation. -/
def notationA : FieldFrame :=
  { cam := 0x01, pan := 0x050000, tilt := 0x0A0000, roll := 0x0F0000, x := 0x00FA00, y := 0x01F400, z := 0x02EE00,
    zoom := 0x1234, focus := 0x56, cs := .auto }

/-- Frame B in the field notation. -/
def notationB : FieldFrame :=
  { cam := 0x7F, pan := 0xD30000, tilt := 0xFFFFFF, roll := 0x800000, x := 0xFFFFFF, y := 0x7FFFFF, z := 0x800000,
    zoom := 0xFFFF, focus := 0xFF, spare := 0xABCD, cs := .auto, tail := 0x112233 }

/-! ## Helpers: a state before one edge, and what its ports carry after it -/

/-- The default build right after reset, one sample on its ports. -/
def before (rst inValid : Bool) (len : BitVec 8) (w : FrameBits) : State :=
  { State.reset with inputs := [⟨rst, inValid, len, w⟩] }

/-- An output port as a number, if the outcome is a next state whose registers hold values. -/
def shows (o : Host.Outcome State Fault Refusal) (p : OutPort) : Option Nat :=
  match o with
  | .next t => (t.regs.map fun r => (r.port p).toNat)
  | .fault _ => none
  | .refused _ => none

/-- An outcome after which a port shows a value is a next state. -/
theorem answers_next {o : Host.Outcome State Fault Refusal} (h : (shows o .outStatus).isSome = true) : ∃ t, o = .next t := by
  cases o with
  | next t => exact ⟨t, rfl⟩
  | fault r => simp [shows] at h
  | refused r => simp [shows] at h

/-- `out_valid` and `out_status` after an outcome. -/
def verdict (o : Host.Outcome State Fault Refusal) : Option Nat × Option Nat := (shows o .outValid, shows o .outStatus)

/-! ## Well-formedness: each check refuses an ill-formed term -/

theorem test_wellFormed_frameA : (Instr.decodeD1 (frameOf 29 wordA)).wellFormed Config.fdx = true := by decide
theorem test_wellFormed_refuses_long : (Instr.pan (frameOf 256 wordA)).wellFormed Config.fdx = false := by decide
theorem test_wellFormed_refuses_empty : (Instr.lenCheck (frameOf 0 wordA)).wellFormed Config.fdx = false := by decide
theorem test_wellFormed_refuses_other_byte : (Instr.decodeD1 (frameOf 29 wordN)).wellFormed Config.fdx = false := by
  decide
theorem test_wellFormed_syncCheck_refuses_long :
    (Instr.syncCheck (frameOf 256 wordN)).wellFormed Config.fdx = false := by decide

/-! ## Decoding: words against the byte lists of section 0 -/

theorem test_decode_frameA : decodeTableWord 232 wordA.toNat = some (.decodeD1 ⟨29, bytesA⟩) := by decide
theorem test_decode_frameN : decodeTableWord 232 wordN.toNat = some (.syncCheck (frameOf 29 wordN)) := by decide
theorem test_decode_match_bits : decodeTableWord 8 0xD1 = some (.decodeD1 (frameOf 29 wordK9)) := by decide
theorem test_decode_one_bit_off : decodeTableWord 8 0xD0 = some (.syncCheck (frameOf 29 0xD0)) := by decide
theorem test_decode_empty : decode Config.fdx 0 wordA = .syncCheck (frameOf 0 wordA) := by decide
theorem test_encode_bytesA : encode (.decodeD1 ⟨29, bytesA⟩) = (29, wordA) := by decide
theorem test_assemble_frameA : notationA.assemble Config.fdx = bytesA := by decide
theorem test_assemble_frameB : packFrame (notationB.assemble Config.fdx) = wordB := by decide
theorem test_rows_selected_by_D1 :
    selectedOps Config.fdx (frameOf 29 wordA) =
      let d := frameOf 29 wordA
      [.decodeD1 d, .syncCheck d, .lenCheck d, .csumCheck d, .cameraId d, .pan d, .tilt d, .roll d, .posX d, .posY d,
        .posZ d, .zoom d, .focus d, .spare d, .checksum d, .raw d] := by decide
theorem test_rows_selected_by_00 : selectedOps Config.fdx (frameOf 29 wordN) = [.syncCheck (frameOf 29 wordN)] := by
  decide

/-! ## One edge: sections 2.1 and 2.5, programs P1 to P4 -/

theorem test_frameA_fields :
    [OutPort.outValid, .outStatus, .outCameraId, .outPan, .outTilt, .outRoll, .outPosX, .outPosY, .outPosZ, .outZoom,
        .outFocus, .outSpare, .outChecksum, .outRaw].map (shows (step (before false true 29 wordA))) =
      [some 1, some 0, some 1, some 0x00050000, some 0x000A0000, some 0x000F0000, some 0x0000FA00, some 0x0001F400,
        some 0x0002EE00, some 0x1234, some 0x56, some 0, some 0xD5, some wordA.toNat] := by decide +kernel
theorem test_frameB_fields :
    [OutPort.outValid, .outStatus, .outCameraId, .outPan, .outTilt, .outRoll, .outPosX, .outPosY, .outPosZ, .outZoom,
        .outFocus, .outSpare, .outChecksum, .outRaw].map (shows (step (before false true 29 wordB))) =
      [some 1, some 0, some 0x7F, some 0xFFD30000, some 0xFFFFFFFF, some 0xFF800000, some 0xFFFFFFFF, some 0x007FFFFF,
        some 0xFF800000, some 0xFFFF, some 0xFF, some 0xABCD, some 0xCB, some wordB.toNat] := by decide +kernel
theorem test_gates :
    [verdict (step (before false true 29 wordN)), verdict (step (before false true 0 wordA)),
        verdict (step (before false true 28 wordN)), verdict (step (before false true 1 wordA)),
        verdict (step (before false true 28 wordA1)), verdict (step (before false true 30 wordA)),
        verdict (step (before false true 255 wordA)), verdict (step (before false true 29 wordA1))] =
      [(some 1, some 1), (some 1, some 1), (some 1, some 1), (some 1, some 2), (some 1, some 2), (some 1, some 2),
        (some 1, some 2), (some 1, some 3)] := by decide +kernel
theorem test_rejected_frame_shows_nothing :
    [shows (step (before false true 29 wordA1)) .outRaw, shows (step (before false true 30 wordA)) .outPan] =
      [some 0, some 0] := by decide +kernel
theorem test_reset_wins : verdict (step (before true true 29 wordA)) = (some 0, some 1) := by decide +kernel
theorem test_idle_clears_valid : verdict (step (before false false 29 wordA)) = (some 0, some 1) := by decide +kernel
theorem test_other_sync_byte :
    verdict (step ⟨{ Config.fdx with syncByte := 0xD0 }, [⟨false, true, 29, wordA⟩], 0, some (Regs.reset 32)⟩) =
      (some 1, some 1) := by decide +kernel
theorem test_mode_difference :
    [verdict (step (before false true 29 wordD)), verdict (step (before false true 29 wordF2)),
        verdict (step ⟨Config.fullByte, [⟨false, true, 29, wordD⟩], 0, some (Regs.reset 32)⟩),
        verdict (step ⟨Config.fullByte, [⟨false, true, 29, wordF2⟩], 0, some (Regs.reset 32)⟩)] =
      [(some 1, some 0), (some 1, some 0), (some 1, some 3), (some 1, some 3)] := by decide +kernel
theorem test_undetected_flip : shows (step (before false true 29 wordF2)) .outTilt = some 0x000A0004 := by
  decide +kernel
theorem test_first_instruction_after_reset :
    verdict (step (State.reset.withFetchWord 8 0xD1)) = (some 1, some 3) := by decide +kernel

/-! ## The operations, each on a frame that is VALID and on one that is not -/

theorem test_exec_syncCheck :
    [verdict (exec (.syncCheck (frameOf 29 wordN)) State.reset), verdict (exec (.syncCheck (frameOf 29 wordA)) State.reset)] =
      [(some 1, some 1), (some 0, some 1)] := by decide +kernel
theorem test_exec_lenCheck :
    [verdict (exec (.lenCheck (frameOf 28 wordA)) State.reset), verdict (exec (.lenCheck (frameOf 29 wordA)) State.reset)] =
      [(some 1, some 2), (some 0, some 1)] := by decide +kernel
theorem test_exec_csumCheck :
    [verdict (exec (.csumCheck (frameOf 29 wordF0)) State.reset), verdict (exec (.csumCheck (frameOf 29 wordB)) State.reset)] =
      [(some 1, some 3), (some 1, some 0)] := by decide +kernel
theorem test_exec_fields_of_B :
    let d := frameOf 29 wordB
    [shows (exec (.cameraId d) State.reset) .outCameraId, shows (exec (.pan d) State.reset) .outPan,
        shows (exec (.tilt d) State.reset) .outTilt, shows (exec (.roll d) State.reset) .outRoll,
        shows (exec (.posX d) State.reset) .outPosX, shows (exec (.posY d) State.reset) .outPosY,
        shows (exec (.posZ d) State.reset) .outPosZ, shows (exec (.zoom d) State.reset) .outZoom,
        shows (exec (.focus d) State.reset) .outFocus, shows (exec (.spare d) State.reset) .outSpare,
        shows (exec (.checksum d) State.reset) .outChecksum, shows (exec (.raw d) State.reset) .outRaw] =
      [some 0x7F, some 0xFFD30000, some 0xFFFFFFFF, some 0xFF800000, some 0xFFFFFFFF, some 0x007FFFFF, some 0xFF800000,
        some 0xFFFF, some 0xFF, some 0xABCD, some 0xCB, some wordB.toNat] := by decide +kernel

/-! ## The extractors and the checksum: sections 2.2 to 2.4 -/

theorem test_sfix24_vectors :
    [extSfix24 32 0x00 0x00 0x00 15, extSfix24 32 0x7F 0xFF 0xFF 15, extSfix24 32 0x80 0x00 0x00 15,
        extSfix24 32 0x80 0x00 0x01 15, extSfix24 32 0x00 0x80 0x00 15, extSfix24 32 0xFF 0x80 0x00 15,
        extSfix24 32 0x00 0x00 0x80 15, extSfix24 32 0x00 0x80 0x80 15] =
      [0x00000000, 0x007FFFFF, 0xFF800000, 0xFF800001, 0x00008000, 0xFFFF8000, 0x00000080, 0x00008080] := by decide
theorem test_sfix24_widths :
    extSfix24 24 0x80 0x00 0x00 15 = 0x800000 ∧ extSfix24 64 0x80 0x00 0x00 15 = 0xFFFFFFFFFF800000 ∧
      extSfix24 64 0x7F 0xFF 0xFF 15 = 0x00000000007FFFFF := by decide
theorem test_values :
    fixVal 15 (0xFFD30000 : BitVec 32) = -90 ∧ fixVal 6 (0x0000FA00 : BitVec 32) = 1000 ∧
      encSfix24 15 (-90) = some 0xD30000 ∧ encSfix24 6 1000 = some 0x00FA00 ∧ encSfix24 6 (1 / 128) = none ∧
      encSfix24 15 256 = none := by decide +kernel
theorem test_unsigned : extU8 0xFF = 255 ∧ extU16 0x12 0x34 = 0x1234 ∧ extU16 0x00 0x01 = 1 := by decide
theorem test_checksum_default :
    [wordA, wordB, wordA1, wordD, wordK9].map (fun w => csumAcc Config.fdx (unpackFrame w)) = [0, 0, 3, 0, 3] := by
  decide +kernel
theorem test_checksum_full_byte :
    [wordA, wordB, wordA1, wordD, wordK9].map (fun w => csumAcc Config.fullByte (unpackFrame w)) =
      [0, 0, 0xFF, 0xFC, 0x6F] := by decide +kernel

/-! ## The ports, the framer and the consumer -/

theorem test_port_before_reset :
    readPort (State.powerUp Config.fdx []) .outStatus = .error .portHoldsNoValue := by rfl
theorem test_saturated_length : saturatedLen 8 300 = 255 ∧ saturatedLen 5 61 = 31 ∧ saturatedLen 8 29 = 29 := by decide
theorem test_present_bytesA : (presentBytes 8 bytesA.toList bytesA).inFrame = wordA := by decide

/-! ## Witnesses: the hypotheses of each statement can be met -/

/-- Of the statements about one operation on one frame: a legal build whose registers hold values, and a frame for each
clause, at the boundary lengths 0, 1, 28, 29 and 30. -/
theorem test_witness_frame_clauses :
    State.reset.cfg.legal = true ∧ State.reset.regs = some (Regs.reset State.reset.cfg.outW) ∧
    (frameOf 0 wordA).len = 0 ∧ (frameOf 1 wordA).frame[0] = State.reset.cfg.syncByte ∧
    (frameOf 29 wordN).frame[0] ≠ State.reset.cfg.syncByte ∧
    (1 ≤ (frameOf 1 wordA).len ∧ (frameOf 1 wordA).len ≠ 29) ∧
    ((frameOf 28 wordA).len ≠ 29 ∧ (frameOf 30 wordA).len ≠ 29) ∧
    (frameOf 255 wordA).len = 2 ^ State.reset.cfg.lenW - 1 ∧
    ((frameOf 29 wordA).frame[0] = State.reset.cfg.syncByte ∧ (frameOf 29 wordA).len = 29) ∧
    csumAcc State.reset.cfg (frameOf 29 wordA).frame = 0 ∧
    ((frameOf 29 wordA1).frame[0] = State.reset.cfg.syncByte ∧
      csumAcc State.reset.cfg (frameOf 29 wordA1).frame ≠ 0) := by
  decide +kernel

/-- Of the statements about a field operation. -/
theorem test_witness_field_operations :
    outcome State.reset.cfg (frameOf 29 wordA) = .valid ∧ outcome State.reset.cfg (frameOf 29 wordA1) ≠ .valid ∧
    outcome State.reset.cfg (frameOf 28 wordA) ≠ .valid := by decide +kernel

/-- Of the statements about the three kinds of edge. -/
theorem test_witness_edges :
    ((before false true 29 wordA).sample.rst = false ∧ (before false true 29 wordA).sample.inValid = true) ∧
    (before false true 29 wordA).sample.accepted = true ∧ (before true true 29 wordA).sample.rst = true ∧
    ((before false false 29 wordA).sample.rst = false ∧ (before false false 29 wordA).sample.inValid = false) ∧
    (before false true 29 wordA).cfg.legal = true ∧ (before false true 29 wordA).regs.isSome = true := by decide +kernel

/-- Of the statement about a reset edge before or after an accepted frame. -/
theorem test_witness_reset_and_frame :
    (⟨false, true, 29, wordA⟩ : PortSample Config.fdx.lenW).accepted = true ∧
    (⟨true, true, 29, wordB⟩ : PortSample Config.fdx.lenW).rst = true ∧ Config.fdx.legal = true := by decide +kernel

/-- Of the statement that a step runs the decoded operation: that operation answers a next state. -/
theorem test_witness_decoded_operation :
    ∃ t, exec (decode Config.fdx 29 wordA) (before false true 29 wordA) = .next t := answers_next (by decide +kernel)

/-- Of the statements about the time before the first reset edge. -/
theorem test_witness_before_reset :
    (State.powerUp Config.fdx [⟨false, true, 29, wordA⟩]).regs = none ∧
    (State.powerUp Config.fdx [⟨false, true, 29, wordA⟩]).sample.rst = false ∧
    (State.powerUp Config.fdx [⟨true, false, 0, 0⟩]).sample.rst = true ∧ Config.fdx.legal = true := by decide +kernel

/-- Of the statement about illegal builds: each parameter just outside its legal values. -/
theorem test_witness_illegal_builds :
    [{ Config.fdx with frameLen := 30 }, { Config.fdx with fracRot := 24 }, { Config.fdx with fracPos := 24 },
        { Config.fdx with csumMask := 0x07 }, { Config.fdx with outW := 23 }, { Config.fdx with outW := 65 },
        { Config.fdx with lenW := 4 }, { Config.fdx with lenW := 17 }].map Config.legal =
      [false, false, false, false, false, false, false, false] := by decide

/-- Of the statements that follow a step or an operation to its next state, and to the registers it leaves. -/
theorem test_witness_next_states :
    (∃ t, step (before false true 29 wordA) = .next t) ∧ (∃ t, exec (.decodeD1 (frameOf 29 wordA)) State.reset = .next t) ∧
    verdict (exec (.decodeD1 (frameOf 29 wordA)) State.reset) = (some 1, some 0) :=
  ⟨answers_next (by decide +kernel), answers_next (by decide +kernel), by decide +kernel⟩

/-- Of the statement about samples that are not read. -/
theorem test_witness_unread : (true = true ∨ true = false) ∧ (false = true ∨ false = false) := by decide

/-- Of the invariant: a state whose registers hold frame A's result, and a step from it. -/
def holdingA : State :=
  ⟨Config.fdx, [⟨false, true, 29, wordB⟩], 1, some (acceptedRegs Config.fdx (frameOf 29 wordA))⟩

theorem test_witness_invariant : holdingA.Inv ∧ ∃ t, step holdingA = .next t := by
  refine ⟨⟨by decide, fun r hr => ?_⟩, answers_next (by decide +kernel)⟩
  have h : r = acceptedRegs Config.fdx (frameOf 29 wordA) := (Option.some.inj hr).symm
  subst h
  unfold Regs.Coherent
  decide +kernel

/-- Of the statements about the bytes that a result depends on. -/
theorem test_witness_needed_bytes :
    ((frameOf 0 wordA).len = 0 ∧ (frameOf 0 wordB).len = 0) ∧
    ((frameOf 28 wordA).len = (frameOf 28 wordB).len ∧ (frameOf 28 wordA).frame[0] = (frameOf 28 wordB).frame[0] ∧
      (frameOf 28 wordA).len ≠ 29) ∧
    (1 ≤ (frameOf 29 wordN).len ∧ (frameOf 29 wordN).frame[0] ≠ Config.fdx.syncByte) := by decide +kernel

/-- Of the statements about the extractors and the checksum: the ends of the parameters' ranges. -/
theorem test_witness_parameters :
    (24 ≤ 24 ∧ 64 ≤ 64 ∧ 0 ≤ 23 ∧ 23 ≤ 23) ∧ Config.fdx.csumMask.toNat = 2 ^ 2 - 1 ∧
    Config.fullByte.csumMask.toNat = 2 ^ 8 - 1 ∧ Config.fullByte.csumInit = 0x40 ∧
    encSfix24 6 (-131072) = some 0x800000 ∧ encSfix24 15 (8388607 / 32768) = some 0x7FFFFF ∧
    csumOk Config.fullByte (unpackFrame wordA) = true ∧ csumOk Config.fdx (unpackFrame wordA) = true := by decide +kernel

/-- Of the range of fixed-point values: a value inside, and both clauses of its right side. -/
theorem test_witness_value_range : fixVal 15 (extSfix24 32 0x80 0x00 0x00 15) = -256 := by decide +kernel

/-- Of the statements about encoding. -/
theorem test_witness_encoding :
    (Instr.decodeD1 (frameOf 29 wordA)).wellFormed Config.fdx = true ∧
    (Instr.pan (frameOf 29 wordA)).wellFormed Config.fdx = true ∧
    (frameOf 29 wordA).selectsD1 Config.fdx = true ∧ 29 < 2 ^ Config.fdx.lenW ∧
    (notationA.cs = .auto ∧ csumOk Config.fdx (FieldFrame.assemble Config.fdx { notationA with cs := .given 0xD9 }) = true) := by
  decide +kernel

/-- Of the statement about the framer: a delivery for each clause. -/
theorem test_witness_framer :
    ([] : List Byte).head? ≠ some Config.fdx.syncByte ∧
    (bytesA.toList.drop 1).head? ≠ some Config.fdx.syncByte ∧
    (bytesA.toList.take 28).head? = some Config.fdx.syncByte ∧ (bytesA.toList.take 28).length ≠ 29 ∧
    bytesA.toList.length = 29 := by decide

end Sys2Proof.Machine.Tests
end

section
/-! The refusal of illegal builds and the constancy of the build parameters (00_scope.md R9). -/

namespace Sys2Proof.Machine

/-- The legal values as one list of conditions (00_scope.md R9). -/
theorem legal_eq_true_iff {c : Config} :
    c.legal = true ↔ c.frameLen = 29 ∧ c.fracRot ≤ 23 ∧ c.fracPos ≤ 23 ∧
      (c.csumMask = 0x03 ∨ c.csumMask = 0xFF) ∧ 24 ≤ c.outW ∧ c.outW ≤ 64 ∧ 5 ≤ c.lenW ∧ c.lenW ≤ 16 := by
  simp [Config.legal, and_assoc]

/-- Every operation is guarded by the build's legality. -/
theorem exec_eq_onBuild (i : Instr) (s : State) : ∃ t, exec i s = onBuild s t := by
  cases i <;> exact ⟨_, rfl⟩

theorem exec_of_illegal {s : State} (h : s.cfg.legal = false) (i : Instr) : exec i s = .refused .illegalBuild := by
  obtain ⟨t, ht⟩ := exec_eq_onBuild i s
  rw [ht, onBuild_of_illegal h]

/-- An operation writes registers only, so it keeps the build. -/
theorem cfg_of_exec {i : Instr} {s t : State} (h : exec i s = .next t) : t.cfg = s.cfg := by
  obtain ⟨_, g, rfl⟩ := exec_eq_next h
  exact State.updateRegs_cfg s g

theorem thenAdvance_eq_next_iff {o : Host.Outcome State Fault Refusal} {t : State} :
    thenAdvance o = .next t ↔ ∃ u, o = .next u ∧ t = u.advance := by
  cases o <;> simp [eq_comm]

/-- All that a step can do where it answers a next state: the three edges of 10_state.md R33, in a legal build. -/
theorem step_eq_next_cases {s t : State} (h : step s = .next t) :
    s.cfg.legal = true ∧
      ((s.sample.rst = true ∧ t = s.resetEdge.advance) ∨
       (s.sample.rst = false ∧ s.sample.inValid = true ∧ ∃ u, exec s.fetched s = .next u ∧ t = u.advance) ∨
       (s.sample.rst = false ∧ s.sample.inValid = false ∧ t = s.idleEdge.advance)) := by
  have hl := legal_of_step h
  rw [step_of_legal hl] at h
  refine ⟨hl, ?_⟩
  cases hr : s.sample.rst with
  | true => exact .inl ⟨rfl, by simpa [hr, eq_comm] using h⟩
  | false =>
    cases hv : s.sample.inValid with
    | true => exact .inr (.inl ⟨rfl, rfl, thenAdvance_eq_next_iff.mp (by simpa [hr, hv] using h)⟩)
    | false => exact .inr (.inr ⟨rfl, rfl, by simpa [hr, hv, eq_comm] using h⟩)

/-- No edge writes a parameter (00_scope.md R9). -/
theorem cfg_of_step {s t : State} (h : step s = .next t) : t.cfg = s.cfg := by
  obtain ⟨_, ⟨_, rfl⟩ | ⟨_, _, u, hu, rfl⟩ | ⟨_, _, rfl⟩⟩ := step_eq_next_cases h
  · rw [State.advance_cfg, State.resetEdge_cfg]
  · rw [State.advance_cfg, cfg_of_exec hu]
  · rw [State.advance_cfg, State.idleEdge_cfg]

/-- Settles O23: the guard on the build's legality stands before every step and every operation, and each of the three
edges keeps the build. -/
theorem illegalBuildsAreRefused : Obligations.IllegalBuildsAreRefused := by
  refine ⟨rfl, fun s hs => ?_, fun s t => cfg_of_step⟩
  have hl : s.cfg.legal = false := Bool.eq_false_iff.mpr fun h => hs (legal_eq_true_iff.mp h)
  exact ⟨step_of_illegal hl, exec_of_illegal hl⟩

end Sys2Proof.Machine
end

section
/-! The three edges of 10_state.md R33: what each one leaves in the registers, and which inputs it reads. -/

namespace Sys2Proof.Machine

theorem PortSample.accepted_eq_true_iff {lenW : Nat} {p : PortSample lenW} :
    p.accepted = true ↔ p.rst = false ∧ p.inValid = true := by
  simp [PortSample.accepted]

/-- A sample makes a reset edge, an acceptance cycle or an idle edge (10_state.md R33). -/
theorem PortSample.edge_cases {lenW : Nat} (p : PortSample lenW) :
    p.rst = true ∨ p.accepted = true ∨ (p.rst = false ∧ p.inValid = false) := by
  rw [PortSample.accepted_eq_true_iff]
  cases p.rst <;> cases p.inValid <;> decide

/-- The ports name an operation on the frame they carry. -/
theorem State.fetched_eq (s : State) : s.fetched = decodeDelivery s.cfg s.sample.delivery := rfl

/-- A frame without the sync byte gets NOT_RECOGNIZED and zero fields, whatever the registers held. -/
theorem acceptedRegs_of_not_sync {c : Config} {d : Delivery} (h : d.len = 0 ∨ d.frame[0] ≠ c.syncByte)
    (r : Regs c.outW) : acceptedRegs c d = r.report .notRecognized := by
  rw [acceptedRegs, decodeFrame, if_pos h]
  rfl

/-- SYNC_CHECK leaves what DECODE_D1 leaves on a frame without the sync byte. -/
theorem exec_syncCheck_of_not_sync {s : State} {d : Delivery} (h : d.len = 0 ∨ d.frame[0] ≠ s.cfg.syncByte) :
    exec (.syncCheck d) s = exec (.decodeD1 d) s := by
  have hregs : (fun r : Regs s.cfg.outW => r.report .notRecognized) = fun _ => acceptedRegs s.cfg d :=
    funext fun r => (acceptedRegs_of_not_sync h r).symm
  change execSyncCheck d s = execDecodeD1 d s
  simp only [execSyncCheck, execDecodeD1, recognised_eq_false_iff.mpr h, Bool.false_eq_true, if_false, State.report,
    hregs]

/-- Whichever operation a delivery selects, it does what DECODE_D1 does (43_frame_decode.md R150). -/
theorem exec_decodeDelivery (s : State) (d : Delivery) :
    exec (decodeDelivery s.cfg d) s = exec (.decodeD1 d) s := by
  obtain ⟨hd, -⟩ | ⟨hd, hs⟩ := decodeDelivery_cases s.cfg d
  · rw [hd]
  · rw [hd, exec_syncCheck_of_not_sync hs]

/-- DECODE_D1 in a legal build writes the whole register set. -/
theorem exec_decodeD1_of_legal {s : State} (h : s.cfg.legal = true) (d : Delivery) :
    exec (.decodeD1 d) s = .next (s.updateRegs fun _ => acceptedRegs s.cfg d) :=
  onBuild_of_legal h _

section Edges

variable {s : State} (hl : s.cfg.legal = true)
include hl

/-- A reset edge reads no other input. -/
theorem step_of_rst (hr : s.sample.rst = true) : step s = .next s.resetEdge.advance := by
  rw [step_of_legal hl, if_pos hr]

/-- An acceptance cycle writes DECODE's result, whichever operation the frame selects. -/
theorem step_of_accepted (ha : s.sample.accepted = true) :
    step s = .next (s.updateRegs fun _ => acceptedRegs s.cfg s.sample.delivery).advance := by
  obtain ⟨hr, hv⟩ := PortSample.accepted_eq_true_iff.mp ha
  rw [step_of_legal hl, if_neg (by simp [hr]), if_pos hv, State.fetched_eq, exec_decodeDelivery,
    exec_decodeD1_of_legal hl, thenAdvance_next]

/-- An idle edge reads neither `in_len` nor `in_frame`. -/
theorem step_of_idle (hr : s.sample.rst = false) (hv : s.sample.inValid = false) :
    step s = .next s.idleEdge.advance := by
  rw [step_of_legal hl, if_neg (by simp [hr]), if_neg (by simp [hv])]

end Edges

section EdgeFunction

variable {c : Config} {p : PortSample c.lenW}

theorem nextRegs_of_rst (hr : p.rst = true) (r : Option (Regs c.outW)) :
    nextRegs c p r = some (Regs.reset c.outW) := by
  rw [nextRegs, if_pos hr]

theorem nextRegs_of_accepted (ha : p.accepted = true) (r : Option (Regs c.outW)) :
    nextRegs c p r = r.map fun _ => acceptedRegs c p.delivery := by
  obtain ⟨hr, hv⟩ := PortSample.accepted_eq_true_iff.mp ha
  rw [nextRegs, if_neg (by simp [hr]), if_pos hv]

theorem nextRegs_of_idle (hr : p.rst = false) (hv : p.inValid = false) (r : Option (Regs c.outW)) :
    nextRegs c p r = r.map fun r => { r with valid := false } := by
  rw [nextRegs, if_neg (by simp [hr]), if_neg (by simp [hv])]

/-- Registers that hold values hold values after every edge, those of 10_state.md R33. -/
theorem nextRegs_some (r : Regs c.outW) :
    nextRegs c p (some r) = some
      (if p.rst = true then Regs.reset c.outW
      else if p.inValid = true then acceptedRegs c p.delivery
      else { r with valid := false }) := by
  rw [nextRegs, Option.map_some, Option.map_some, apply_ite some, apply_ite some]

/-- What 10_state.md R26 says of one edge. -/
theorem nextRegs_valid_iff_accepted {r r' : Regs c.outW} (h : nextRegs c p (some r) = some r') :
    (r'.valid = true ↔ p.accepted = true) ∧
      (p.accepted = false → p.rst = false → r'.status = r.status ∧ r'.toFields = r.toFields) ∧
      (p.rst = true → r' = Regs.reset c.outW) := by
  obtain hr | ha | ⟨hr, hv⟩ := p.edge_cases
  · rw [nextRegs_of_rst hr] at h
    obtain rfl := Option.some.inj h
    simp [PortSample.accepted, hr]
  · have hr := (PortSample.accepted_eq_true_iff.mp ha).1
    rw [nextRegs_of_accepted ha] at h
    obtain rfl := Option.some.inj h
    simp [ha, hr]
  · rw [nextRegs_of_idle hr hv] at h
    obtain rfl := Option.some.inj h
    simp [PortSample.accepted, hr, hv]

end EdgeFunction

/-- One step of a legal build: the ports move on and the registers become what the edge function makes of them, be they
values or none. -/
theorem step_eq_nextRegs {s : State} (hl : s.cfg.legal = true) :
    step s = .next { s with
      inputs := s.inputs.tail
      cycle := s.cycle + 1
      regs := nextRegs s.cfg s.sample s.regs } := by
  obtain hr | ha | ⟨hr, hv⟩ := s.sample.edge_cases
  · rw [step_of_rst hl hr, nextRegs_of_rst hr]
    rfl
  · rw [step_of_accepted hl ha, nextRegs_of_accepted ha]
    rfl
  · rw [step_of_idle hl hr hv, nextRegs_of_idle hr hv]
    rfl

/-- One step of a legal build whose registers hold values. -/
theorem step_of_nextRegs_some {s : State} {r r' : Regs s.cfg.outW} (hl : s.cfg.legal = true) (hs : s.regs = some r)
    (h : nextRegs s.cfg s.sample (some r) = some r') : step s = .next (s.advance.withRegs r') := by
  rw [step_eq_nextRegs hl, hs, h]
  rfl

/-- Settles O16: the step applies the edge function, which is R33 on registers that hold values. -/
theorem stepIsTheEdgeFunction : Obligations.StepIsTheEdgeFunction := by
  intro s r hl hs
  exact step_of_nextRegs_some hl hs (nextRegs_some r)

/-- Settles O26: the registers that the edge function gives, read for `out_valid` and for what is held. -/
theorem outValidMarksAcceptance : Obligations.OutValidMarksAcceptance := by
  intro s r hl hs
  have hnext := nextRegs_some (p := s.sample) r
  exact ⟨_, step_of_nextRegs_some hl hs hnext, nextRegs_valid_iff_accepted hnext⟩

/-- Settles O27: a reset edge and an idle edge step without reading the frame, and an illegal build does not step. -/
theorem unreadInputsHaveNoEffect : Obligations.UnreadInputsHaveNoEffect := by
  intro c rst inValid l l' f f' ps n r hunread
  cases hl : c.legal with
  | false => rw [step_of_illegal hl, step_of_illegal hl]
  | true =>
    cases rst with
    | true =>
      rw [step_of_rst hl rfl, step_of_rst hl rfl]
      rfl
    | false =>
      obtain rfl : inValid = false := hunread.resolve_left (by decide)
      rw [step_of_idle hl rfl rfl, step_of_idle hl rfl rfl]
      rfl

end Sys2Proof.Machine
end

section
/-! The results that a run presents, in the order of the samples they come from (20_memory.md R61). -/

namespace Sys2Proof.Machine

/-- An edge presents DECODE's result of the frame it accepts, and nothing where it accepts none. -/
theorem presentedIn_nextRegs_some (c : Config) (p : PortSample c.lenW) (r : Regs c.outW) :
    presentedIn ⟨c, nextRegs c p (some r)⟩ =
      if p.accepted = true then some ⟨c, decodeFrame c p.delivery⟩ else none := by
  obtain hr | ha | ⟨hr, hv⟩ := p.edge_cases
  · simp [nextRegs_of_rst hr, presentedIn, PortSample.accepted, hr]
  · simp [nextRegs_of_accepted ha, presentedIn, ha]
  · simp [nextRegs_of_idle hr hv, presentedIn, PortSample.accepted, hv]

/-- A run's results are its first edge's, if it presents one, and then those of the rest of the run. -/
theorem presentedResults_succ {n : Nat} {s t : State} (h : step s = .next t) :
    presentedResults (n + 1) s = (presentedIn ⟨t.cfg, t.regs⟩).toList ++ presentedResults n t := by
  rw [presentedResults, observe_succ h, List.filterMap_cons]
  cases presentedIn ⟨t.cfg, t.regs⟩ <;> rfl

/-- DECODE's results of the accepted ones among the samples, in their order. -/
def acceptedResults (c : Config) (ps : List (PortSample c.lenW)) : List ((c : Config) × (Status × Fields c.outW)) :=
  (ps.filter PortSample.accepted).map fun p => ⟨c, decodeFrame c p.delivery⟩

theorem acceptedResults_cons (c : Config) (p : PortSample c.lenW) (ps : List (PortSample c.lenW)) :
    acceptedResults c (p :: ps) =
      (if p.accepted = true then some ⟨c, decodeFrame c p.delivery⟩ else none).toList ++ acceptedResults c ps := by
  rw [acceptedResults, List.filter_cons]
  split <;> rfl

/-- Induction on the number of edges: the registers hold values after each edge (`nextRegs_some`), so the hypothesis
speaks of every state on the way. -/
theorem presentedResults_eq_acceptedResults {s : State} (n : Nat) (hl : s.cfg.legal = true)
    (hs : s.regs.isSome = true) : presentedResults n s = acceptedResults s.cfg (s.samples n) := by
  induction n generalizing s with
  | zero => rfl
  | succ n ih =>
    obtain ⟨r, hr⟩ := Option.isSome_iff_exists.mp hs
    obtain ⟨r', hnext⟩ : ∃ r', nextRegs s.cfg s.sample (some r) = some r' := ⟨_, nextRegs_some r⟩
    have hrest : presentedResults n (s.advance.withRegs r') = acceptedResults s.cfg (s.advance.samples n) :=
      ih (s := s.advance.withRegs r') hl rfl
    calc presentedResults (n + 1) s
      _ = (presentedIn ⟨s.cfg, some r'⟩).toList ++ presentedResults n (s.advance.withRegs r') :=
        presentedResults_succ (step_of_nextRegs_some hl hr hnext)
      _ = acceptedResults s.cfg (s.sample :: s.advance.samples n) := by
        rw [← hnext, presentedIn_nextRegs_some, hrest]
        exact (acceptedResults_cons s.cfg s.sample _).symm
      _ = acceptedResults s.cfg (s.samples (n + 1)) := by rw [State.samples_succ]

/-- Settles O29: the results of a run by induction on its edges, then one acceptance edge and one idle edge. -/
theorem resultsLeaveInArrivalOrder : Obligations.ResultsLeaveInArrivalOrder := by
  refine ⟨fun _ n => presentedResults_eq_acceptedResults n, fun c p ps n r hl => ⟨fun ha => ?_, fun hr hv => ?_⟩⟩
  · rw [step_of_accepted (s := ⟨c, p :: ps, n, some r⟩) hl ha]
    rfl
  · rw [step_of_idle (s := ⟨c, p :: ps, n, some r⟩) hl hr hv]
    rfl

end Sys2Proof.Machine
end

section
/-! Which bytes DECODE's result depends on (20_memory.md R59): the gates read the length and the leading byte, and a
VALID result shows all 29 bytes on `out_raw`. -/

namespace Sys2Proof.Machine

theorem decodeFrame_of_not_sync {c : Config} {d : Delivery} (h : d.len = 0 ∨ d.frame[0] ≠ c.syncByte) :
    decodeFrame c d = (.notRecognized, Fields.zero c.outW) := if_pos h

theorem decodeFrame_of_bad_length {c : Config} {d : Delivery} (hs : ¬ (d.len = 0 ∨ d.frame[0] ≠ c.syncByte))
    (hn : d.len ≠ c.frameLen) : decodeFrame c d = (.badLength, Fields.zero c.outW) := by
  rw [decodeFrame, if_neg hs, if_pos hn]

/-- DECODE's result of a frame that fails a gate depends on the length and the leading byte. -/
theorem decodeFrame_congr_of_fails_gate {c : Config} {d d' : Delivery} (hlen : d.len = d'.len)
    (h0 : d.frame[0] = d'.frame[0]) (hg : d.frame[0] ≠ c.syncByte ∨ d.len ≠ c.frameLen) :
    decodeFrame c d = decodeFrame c d' := by
  by_cases hs : d.len = 0 ∨ d.frame[0] ≠ c.syncByte
  · rw [decodeFrame_of_not_sync hs, decodeFrame_of_not_sync (hlen ▸ h0 ▸ hs)]
  · have hn : d.len ≠ c.frameLen := hg.resolve_left fun h => hs (.inr h)
    rw [decodeFrame_of_bad_length hs hn, decodeFrame_of_bad_length (hlen ▸ h0 ▸ hs) (hlen ▸ hn)]

/-- DECODE_D1 reads of its frame what DECODE reads of it, in the builds that have a behaviour. -/
theorem exec_decodeD1_congr {s : State} {d d' : Delivery}
    (h : s.cfg.legal = true → decodeFrame s.cfg d = decodeFrame s.cfg d') :
    exec (.decodeD1 d) s = exec (.decodeD1 d') s := by
  cases hl : s.cfg.legal with
  | false => rw [exec_of_illegal hl, exec_of_illegal hl]
  | true => rw [exec_decodeD1_of_legal hl, exec_decodeD1_of_legal hl, acceptedRegs, acceptedRegs, h hl]

/-- No other frame has the result of a VALID frame: `out_raw` shows every byte. -/
theorem frame_eq_of_decodeFrame_eq {c : Config} {d d' : Delivery} (hv : outcome c d = .valid)
    (h : decodeFrame c d = decodeFrame c d') : d.frame = d'.frame := by
  rw [decodeFrame_eq, decodeFrame_eq, Prod.mk.injEq] at h
  obtain ⟨hstatus, hfields⟩ := h
  rw [← hstatus, if_pos hv, if_pos hv] at hfields
  have hraw : packFrame d.frame = packFrame d'.frame := congrArg Fields.raw hfields
  rw [← unpackFrame_packFrame d.frame, hraw, unpackFrame_packFrame]

/-- Subtracting the accumulator from itself leaves zero under every mask. -/
theorem csumStep_self (mask a : Byte) : csumStep mask a a = 0 := by
  simp [csumStep]

/-- 28 bytes and a last one that makes the checksum pass, the accumulator before it. -/
def completeFrame (c : Config) (v : Vector Byte 28) : Frame := v.push (v.toList.foldl (csumStep c.csumMask) c.csumInit)

theorem csumAcc_completeFrame (c : Config) (v : Vector Byte 28) : csumAcc c (completeFrame c v) = 0 := by
  rw [csumAcc, completeFrame, Vector.toList_push, List.foldl_append, List.foldl_cons, List.foldl_nil,
    csumStep_self]

theorem completeFrame_getElem_zero (c : Config) (v : Vector Byte 28) : (completeFrame c v)[0] = v[0] :=
  Vector.getElem_push_lt (by decide)

/-- 28 bytes that start with the sync byte are completed to a VALID frame. -/
theorem outcome_completeFrame {c : Config} (hl : c.legal = true) {v : Vector Byte 28} (h0 : v[0] = c.syncByte) :
    outcome c ⟨29, completeFrame c v⟩ = .valid := by
  refine outcome_eq_valid_iff.mpr ⟨?_, ?_, ?_⟩
  · exact recognised_eq_true_iff.mpr ⟨Nat.succ_le_succ (Nat.zero_le 28), (completeFrame_getElem_zero c v).trans h0⟩
  · exact lengthOk_eq_true_iff.mpr (frameLen_of_legal hl).symm
  · exact csumOk_eq_true_iff.mpr (csumAcc_completeFrame c v)

/-- Every legal build has a VALID frame. -/
theorem exists_valid_frame {c : Config} (hl : c.legal = true) :
    ∃ f : Frame, f[0] = c.syncByte ∧ outcome c ⟨29, f⟩ = .valid := by
  have h0 : (Vector.replicate 28 c.syncByte)[0] = c.syncByte := Vector.getElem_replicate _
  exact ⟨_, (completeFrame_getElem_zero c _).trans h0, outcome_completeFrame hl h0⟩

/-- Settles O31: an empty frame fails the first gate whatever its bytes, a frame that fails a gate is read for length
and leading byte alone, and each byte of a VALID frame shows. -/
theorem resultReadsOnlyNeededBytes : Obligations.ResultReadsOnlyNeededBytes := by
  refine ⟨fun s d d' h h' => ?empty, fun s d d' hlen h0 hg => ?gate, fun c i hl => ?everyByte⟩
  case empty =>
    exact exec_decodeD1_congr fun _ => by
      rw [decodeFrame_of_not_sync (.inl h), decodeFrame_of_not_sync (.inl h')]
  case gate =>
    refine exec_decodeD1_congr fun hl => decodeFrame_congr_of_fails_gate hlen h0 ?_
    rw [frameLen_of_legal hl]
    exact hg.imp_left And.right
  case everyByte =>
    obtain ⟨f, h0, hv⟩ := exists_valid_frame hl
    refine ⟨f, f.set i (f[i] + 1), h0, fun j hj => ?_, fun h => ?_⟩
    · exact (Vector.getElem_set_ne _ _ fun hij => hj (Fin.ext hij.symm)).symm
    · have hbyte : f[i] = f[i] + 1 := by
        have hframe : f = f.set i (f[i] + 1) := frame_eq_of_decodeFrame_eq hv h
        calc f[i]
          _ = (f.set i (f[i] + 1))[i] := congrArg (·[i]) hframe
          _ = f[i] + 1 := Vector.getElem_set_self _
      exact absurd hbyte (by bv_omega)

end Sys2Proof.Machine
end

section
/-! Frames written by field values (30_encoding.md R66, R75, R76): the checksum as one residue of the byte sum,
the byte that `cs=auto` writes, and the fields that the layout gives back. -/

namespace Sys2Proof.Machine

/-- Steps that each subtract modulo `n` subtract the sum of the bytes modulo `n`. The list has a byte, since the start
value is not reduced. -/
theorem foldl_csumStep_eq_emod {mask : Byte} {n : Int}
    (hstep : ∀ a b : Byte, ((csumStep mask a b).toNat : Int) = ((a.toNat : Int) - b.toNat) % n) (a b : Byte)
    (bs : List Byte) :
    (((b :: bs).foldl (csumStep mask) a).toNat : Int) =
      ((a.toNat : Int) - ((b :: bs).map BitVec.toNat).sum) % n := by
  induction bs generalizing a b with
  | nil => simpa using hstep a b
  | cons b' bs ih =>
    calc (((b :: b' :: bs).foldl (csumStep mask) a).toNat : Int)
      _ = (((a.toNat : Int) - b.toNat) % n - ((b' :: bs).map BitVec.toNat).sum) % n := by
        rw [← hstep]
        exact ih (csumStep mask a b) b'
      _ = ((a.toNat : Int) - ((b :: b' :: bs).map BitVec.toNat).sum) % n := by
        rw [Int.emod_sub_emod, List.map_cons (a := b), List.sum_cons, Int.natCast_add, Int.sub_sub]

/-- The final accumulator where each step subtracts modulo `n` (42_checksum.md R132). -/
theorem csumAcc_eq_emod {c : Config} {n : Int}
    (hstep : ∀ a b : Byte, ((csumStep c.csumMask a b).toNat : Int) = ((a.toNat : Int) - b.toNat) % n) (f : Frame) :
    ((csumAcc c f).toNat : Int) = ((c.csumInit.toNat : Int) - byteSum f) % n := by
  have hlen : f.toList.length = 29 := Vector.length_toList
  rw [csumAcc, byteSum]
  cases hbytes : f.toList with
  | nil => simp [hbytes] at hlen
  | cons b bs => exact foldl_csumStep_eq_emod hstep _ _ _

/-- A byte sum that agrees with `CSUM_INIT` in all eight bits passes in both modes (42_checksum.md R133, R134). -/
theorem csumOk_of_byteSum {c : Config} (hl : c.legal = true) {f : Frame}
    (hsum : byteSum f % 256 = c.csumInit.toNat) : csumOk c f = true := by
  rw [csumOk_eq_true_iff]
  have hacc : (csumAcc c f).toNat = 0 := by
    rcases csumMask_of_legal hl with hmask | hmask
    · have := csumAcc_eq_emod (c := c) (n := 4) (by rw [hmask]; exact csumStep_default) f
      omega
    · have := csumAcc_eq_emod (c := c) (n := 256) (by rw [hmask]; exact csumStep_fullByte) f
      omega
  exact BitVec.eq_of_toNat_eq hacc

/-- The checksum byte brings the byte sum to `CSUM_INIT` modulo 256 (42_checksum.md R139). -/
theorem byteSum_set_autoChecksum (c : Config) (f : Frame) :
    byteSum (f.set 25 (autoChecksum c f)) % 256 = c.csumInit.toNat := by
  have hset := byteSum_set f 25 (autoChecksum c f) (by decide)
  have hauto : ((autoChecksum c f).toNat : Int) =
      ((c.csumInit.toNat : Int) - ((byteSum f : Int) - (f[25].toNat : Int))) % 256 := by
    rw [autoChecksum, BitVec.toNat_ofInt]
    omega
  have := c.csumInit.isLt
  omega

/-- The layout's argument is its byte 25 and no other (30_encoding.md R66). -/
theorem layout_set_checksum (c : Config) (a : FieldFrame) (b b' : Byte) :
    (a.layout c b).set 25 b' = a.layout c b' := rfl

/-- A frame with `cs=auto` passes the checksum of every legal build (30_encoding.md R76). -/
theorem csumOk_layout_autoChecksum {c : Config} (hl : c.legal = true) (a : FieldFrame) (b : Byte) :
    csumOk c (a.layout c (autoChecksum c (a.layout c b))) = true := by
  refine csumOk_of_byteSum hl ?_
  rw [← layout_set_checksum c a b]
  exact byteSum_set_autoChecksum c _

/-- The byte that a field frame means at offset 25 (30_encoding.md R75, R76). -/
def checksumByte (c : Config) (a : FieldFrame) : Byte :=
  match a.cs with
  | .given b => b
  | .auto => autoChecksum c (a.layout c 0)

theorem assemble_eq_layout (c : Config) (a : FieldFrame) : a.assemble c = a.layout c (checksumByte c a) := by
  unfold FieldFrame.assemble checksumByte
  cases a.cs <;> rfl

/-- An assembled frame passes where it is written with `cs=auto`, or with a byte that passes. -/
theorem csumOk_assemble {c : Config} (hl : c.legal = true) {a : FieldFrame}
    (h : a.cs = .auto ∨ csumOk c (a.assemble c) = true) : csumOk c (a.assemble c) = true := by
  rcases h with hauto | hpass
  · have hframe : a.assemble c = a.layout c (autoChecksum c (a.layout c 0)) := by
      rw [FieldFrame.assemble, hauto]
    rw [hframe]
    exact csumOk_layout_autoChecksum hl a 0
  · exact hpass

/-- A frame of full length laid out with a checksum byte that passes is VALID. -/
theorem outcome_layout {c : Config} (hl : c.legal = true) {a : FieldFrame} {b : Byte}
    (h : csumOk c (a.layout c b) = true) : outcome c ⟨29, a.layout c b⟩ = .valid :=
  outcome_eq_valid_iff.mpr
    ⟨recognised_eq_true_iff.mpr ⟨Nat.le_add_left 1 28, rfl⟩,
      lengthOk_eq_true_iff.mpr (frameLen_of_legal hl).symm, h⟩

/-- A 24-bit pattern laid out in three bytes is extracted sign-extended, whatever the fractional bits (30_encoding.md
R69). -/
theorem extSfix24_bytes (w : Nat) (u : Word24) (F : Nat) :
    extSfix24 w (highByte u) (midByte u) (lowByte u) F = u.signExtend w := by
  rw [extSfix24, uint24_bytes, sext24]

/-- A 16-bit word laid out in two bytes is extracted as it is (30_encoding.md R69). -/
theorem extU16_bytes (z : BitVec 16) : extU16 (z.extractLsb' 8 8) (z.extractLsb' 0 8) = z := uint16_bytes z

/-- Extraction undoes the layout, field by field (30_encoding.md R66, R69). -/
theorem extractFields_layout (c : Config) (a : FieldFrame) (b : Byte) :
    extractFields c (a.layout c b) =
      { cameraId := a.cam
        pan := a.pan.signExtend c.outW
        tilt := a.tilt.signExtend c.outW
        roll := a.roll.signExtend c.outW
        posX := a.x.signExtend c.outW
        posY := a.y.signExtend c.outW
        posZ := a.z.signExtend c.outW
        zoom := a.zoom
        focus := a.focus
        spare := a.spare
        checksum := b
        raw := packFrame (a.layout c b) } :=
  Fields.mk.injEq .. |>.mpr
    ⟨rfl, extSfix24_bytes .., extSfix24_bytes .., extSfix24_bytes .., extSfix24_bytes .., extSfix24_bytes ..,
      extSfix24_bytes .., extU16_bytes _, rfl, extU16_bytes _, rfl, rfl⟩

/-- A VALID frame's registers are its extracted fields (43_frame_decode.md R150). -/
theorem acceptedRegs_of_valid {c : Config} {d : Delivery} (h : outcome c d = .valid) :
    acceptedRegs c d = { toFields := extractFields c d.frame, valid := true, status := .valid } := by
  rw [acceptedRegs, decodeFrame_eq, if_pos h, h]

/-- Settles O49: the assembled frame is a layout whose checksum passes, so it is VALID, and extraction undoes the
layout. -/
theorem assembledFrameDecodesToItsFields : Obligations.AssembledFrameDecodesToItsFields := by
  intro a s r hl hs hcs
  have hpass := csumOk_assemble hl hcs
  rw [assemble_eq_layout] at hpass ⊢
  rw [exec_decodeD1_of_legal hl, State.updateRegs_of_some hs, acceptedRegs_of_valid (outcome_layout hl hpass),
    extractFields_layout]
  rfl

end Sys2Proof.Machine
end

section
/-! The two gates on a frame that fails them (40_recognition.md R91 to R93, R97): each reports its outcome, and a report
of any outcome but VALID leaves every field register zero. -/

namespace Sys2Proof.Machine

/-- The register set that reports a failure does not depend on what the registers held (43_frame_decode.md R152). -/
theorem Regs.report_of_ne_valid {w : Nat} (r : Regs w) {st : Status} (h : st ≠ .valid) :
    r.report st = { toFields := Fields.zero w, valid := true, status := st } := by
  rw [Regs.report, if_neg h]

theorem State.report_of_some {s : State} {r : Regs s.cfg.outW} (hs : s.regs = some r) {st : Status}
    (h : st ≠ .valid) :
    s.report st = s.withRegs { toFields := Fields.zero s.cfg.outW, valid := true, status := st } := by
  rw [State.report, State.updateRegs_of_some hs, Regs.report_of_ne_valid r h]

section Gates

variable {s : State} {d : Delivery} (hl : s.cfg.legal = true)
include hl

/-- SYNC_CHECK ends a frame that is not recognised (40_recognition.md R91). -/
theorem exec_syncCheck_of_not_recognised (hr : recognised s.cfg d = false) :
    exec (.syncCheck d) s = .next (s.report .notRecognized) := by
  change execSyncCheck d s = _
  rw [execSyncCheck, onBuild_of_legal hl, if_neg (Bool.eq_false_iff.mp hr)]

/-- LEN_CHECK ends a recognised frame of another length (40_recognition.md R92). -/
theorem exec_lenCheck_of_bad_length (hr : recognised s.cfg d = true) (hn : lengthOk s.cfg d = false) :
    exec (.lenCheck d) s = .next (s.report .badLength) := by
  change execLenCheck d s = _
  rw [execLenCheck, onBuild_of_legal hl, if_pos (by rw [hr, hn]; rfl)]

end Gates

/-- `in_len` is at least 5 bits wide, so the length at which it saturates is 31 or more (00_scope.md R9). -/
theorem saturated_length_ne_29 {c : Config} (hl : c.legal = true) : 2 ^ c.lenW - 1 ≠ 29 := by
  obtain ⟨-, -, -, -, -, -, hw, -⟩ := legal_eq_true_iff.mp hl
  have hpow : 2 ^ 5 ≤ 2 ^ c.lenW := Nat.pow_le_pow_right (by decide) hw
  omega

/-- Settles O2: the frame is not recognised, so SYNC_CHECK reports a failure, which zeroes every field. -/
theorem syncCheckReportsNotRecognized : Obligations.SyncCheckReportsNotRecognized := by
  intro d s r hl hs hsync
  rw [exec_syncCheck_of_not_recognised hl (recognised_eq_false_iff.mpr hsync), State.report_of_some hs (by decide)]

/-- Settles O3: the saturated length is a wrong length in every legal build, so LEN_CHECK reports a failure in both
cases. -/
theorem lenCheckReportsBadLength : Obligations.LenCheckReportsBadLength := by
  intro d s r hl hs h1 h0 hlen
  have hne : d.len ≠ s.cfg.frameLen := by
    rw [frameLen_of_legal hl]
    rcases hlen with hne | hsat
    · exact hne
    · exact hsat ▸ saturated_length_ne_29 hl
  rw [exec_lenCheck_of_bad_length hl (recognised_eq_true_iff.mpr ⟨h1, h0⟩) (lengthOk_eq_false_iff.mpr hne),
    State.report_of_some hs (by decide)]

end Sys2Proof.Machine
end

section
/-! The field operations on their own (41_field_extract.md R108 to R119): what each one writes, and what a VALID frame
makes of it. -/

namespace Sys2Proof.Machine

theorem whenValid_of_valid {c : Config} {d : Delivery} (h : outcome c d = .valid) {n : Nat} (v : BitVec n) :
    whenValid c d v = v := if_pos h

section FieldOperations

variable {s : State} {r : Regs s.cfg.outW} (hl : s.cfg.legal = true) (hs : s.regs = some r)
include hl hs

/-- An operation that is one write of registers, in a legal build whose registers hold values. -/
theorem onBuild_updateRegs_of_some (g : Regs s.cfg.outW → Regs s.cfg.outW) :
    onBuild s (s.updateRegs g) = .next (s.withRegs (g r)) := by
  rw [onBuild_of_legal hl, State.updateRegs_of_some hs]

theorem exec_cameraId (d : Delivery) : exec (.cameraId d) s = .next (s.withRegs { r with
    cameraId := whenValid s.cfg d (extU8 d.frame[1]) }) :=
  onBuild_updateRegs_of_some hl hs _

theorem exec_pan (d : Delivery) : exec (.pan d) s = .next (s.withRegs { r with
    pan := whenValid s.cfg d (extSfix24 s.cfg.outW d.frame[2] d.frame[3] d.frame[4] s.cfg.fracRot) }) :=
  onBuild_updateRegs_of_some hl hs _

theorem exec_tilt (d : Delivery) : exec (.tilt d) s = .next (s.withRegs { r with
    tilt := whenValid s.cfg d (extSfix24 s.cfg.outW d.frame[5] d.frame[6] d.frame[7] s.cfg.fracRot) }) :=
  onBuild_updateRegs_of_some hl hs _

theorem exec_roll (d : Delivery) : exec (.roll d) s = .next (s.withRegs { r with
    roll := whenValid s.cfg d (extSfix24 s.cfg.outW d.frame[8] d.frame[9] d.frame[10] s.cfg.fracRot) }) :=
  onBuild_updateRegs_of_some hl hs _

theorem exec_posX (d : Delivery) : exec (.posX d) s = .next (s.withRegs { r with
    posX := whenValid s.cfg d (extSfix24 s.cfg.outW d.frame[11] d.frame[12] d.frame[13] s.cfg.fracPos) }) :=
  onBuild_updateRegs_of_some hl hs _

theorem exec_posY (d : Delivery) : exec (.posY d) s = .next (s.withRegs { r with
    posY := whenValid s.cfg d (extSfix24 s.cfg.outW d.frame[14] d.frame[15] d.frame[16] s.cfg.fracPos) }) :=
  onBuild_updateRegs_of_some hl hs _

theorem exec_posZ (d : Delivery) : exec (.posZ d) s = .next (s.withRegs { r with
    posZ := whenValid s.cfg d (extSfix24 s.cfg.outW d.frame[17] d.frame[18] d.frame[19] s.cfg.fracPos) }) :=
  onBuild_updateRegs_of_some hl hs _

theorem exec_zoom (d : Delivery) : exec (.zoom d) s = .next (s.withRegs { r with
    zoom := whenValid s.cfg d (extU16 d.frame[20] d.frame[21]) }) :=
  onBuild_updateRegs_of_some hl hs _

theorem exec_focus (d : Delivery) : exec (.focus d) s = .next (s.withRegs { r with
    focus := whenValid s.cfg d (extU8 d.frame[22]) }) :=
  onBuild_updateRegs_of_some hl hs _

theorem exec_spare (d : Delivery) : exec (.spare d) s = .next (s.withRegs { r with
    spare := whenValid s.cfg d (extU16 d.frame[23] d.frame[24]) }) :=
  onBuild_updateRegs_of_some hl hs _

theorem exec_checksum (d : Delivery) : exec (.checksum d) s = .next (s.withRegs { r with
    checksum := whenValid s.cfg d (extU8 d.frame[25]) }) :=
  onBuild_updateRegs_of_some hl hs _

theorem exec_raw (d : Delivery) : exec (.raw d) s = .next (s.withRegs { r with
    raw := whenValid s.cfg d (packFrame d.frame) }) :=
  onBuild_updateRegs_of_some hl hs _

end FieldOperations

/-- EXT_U8 is the byte itself (41_field_extract.md R106). -/
theorem extU8_eq (b : Byte) : extU8 b = b := rfl

theorem extU16_toNat (b0 b1 : Byte) : (extU16 b0 b1).toNat = b0.toNat * 2 ^ 8 + b1.toNat := uint16_toNat b0 b1

/-- EXT_U16 is the 16-bit word of the big-endian value (41_field_extract.md R107). -/
theorem extU16_eq_ofNat (b0 b1 : Byte) : extU16 b0 b1 = BitVec.ofNat 16 (b0.toNat * 2 ^ 8 + b1.toNat) := by
  rw [← extU16_toNat, BitVec.ofNat_toNat, BitVec.setWidth_eq]

/-- Settles O6: each operation writes EXT_U8 of its byte, which is the byte. -/
theorem byteFieldOperations : Obligations.ByteFieldOperations := by
  intro d s r hl hs hv
  rw [exec_cameraId hl hs, exec_focus hl hs, exec_checksum hl hs]
  simp only [whenValid_of_valid hv, extU8_eq, and_self]

/-- Settles O7: each operation writes EXT_U16 of its two bytes, the word of their big-endian value. -/
theorem wordFieldOperations : Obligations.WordFieldOperations := by
  intro d s r hl hs hv
  rw [exec_zoom hl hs, exec_spare hl hs]
  simp only [whenValid_of_valid hv, extU16_eq_ofNat, and_self]

/-- Settles O8: the three field operations at `FRAC_ROT`, whose gate a VALID frame opens. -/
theorem rotationFieldOperations : Obligations.RotationFieldOperations := by
  intro d s r hl hs hv
  rw [exec_pan hl hs, exec_tilt hl hs, exec_roll hl hs]
  simp only [whenValid_of_valid hv, and_self]

/-- Settles O9: the three field operations at `FRAC_POS`, whose gate a VALID frame opens. -/
theorem positionFieldOperations : Obligations.PositionFieldOperations := by
  intro d s r hl hs hv
  rw [exec_posX hl hs, exec_posY hl hs, exec_posZ hl hs]
  simp only [whenValid_of_valid hv, and_self]

/-- Settles O10: the word written is the packed frame, whose lane `i` is byte `i`; a VALID frame is recognised, so lane
0 is the sync byte. -/
theorem rawCopiesEveryLane : Obligations.RawCopiesEveryLane := by
  intro d s r hl hs hv
  have hsync : d.frame[0] = s.cfg.syncByte := (recognised_eq_true_iff.mp (outcome_eq_valid_iff.mp hv).1).2
  refine ⟨packFrame d.frame, ?_, fun i h => laneByte_packFrame d.frame i h, ?_⟩
  · rw [exec_raw hl hs, whenValid_of_valid hv]
  · exact (laneByte_packFrame d.frame 0 (by decide)).trans hsync

end Sys2Proof.Machine
end

section
/-! The fractional-bit counts place a binary point and change no bit (41_field_extract.md R122): a build with other
counts decides, selects and writes the same. -/

namespace Sys2Proof.Machine

/-- The counts may take any of their legal values. -/
theorem legal_withFracs {s : State} (hl : s.cfg.legal = true) {rot pos : Nat} (hrot : rot ≤ 23) (hpos : pos ≤ 23) :
    (s.withFracs rot pos).cfg.legal = true := by
  obtain ⟨hlen, -, -, hrest⟩ := legal_eq_true_iff.mp hl
  exact legal_eq_true_iff.mpr ⟨hlen, hrot, hpos, hrest⟩

section Commutes

variable (s : State) (rot pos : Nat)

theorem State.withFracs_advance : s.advance.withFracs rot pos = (s.withFracs rot pos).advance := rfl
theorem State.withFracs_resetEdge : s.resetEdge.withFracs rot pos = (s.withFracs rot pos).resetEdge := rfl
theorem State.withFracs_idleEdge : s.idleEdge.withFracs rot pos = (s.withFracs rot pos).idleEdge := rfl
theorem State.withFracs_sample : (s.withFracs rot pos).sample = s.sample := rfl
theorem State.withFracs_fetched : (s.withFracs rot pos).fetched = s.fetched := rfl

theorem State.withFracs_ite (p : Prop) [Decidable p] (u v : State) :
    (if p then u else v).withFracs rot pos = if p then u.withFracs rot pos else v.withFracs rot pos :=
  apply_ite (State.withFracs · rot pos) p u v

/-- An operation in a build with other counts: the same write behind the same guard. The checks read no count, and
EXT_SFIX24 takes the count without reading it, so the written values are the same terms. -/
theorem exec_withFracs (i : Instr) : ∃ u, exec i s = onBuild s u ∧
    exec i (s.withFracs rot pos) = onBuild (s.withFracs rot pos) (u.withFracs rot pos) := by
  cases i with
  | syncCheck d | lenCheck d | csumCheck d =>
    exact ⟨_, rfl, by rw [State.withFracs_ite]; rfl⟩
  | _ => exact ⟨_, rfl, rfl⟩

end Commutes

/-- In legal builds an operation has the same next state, with the changed counts. -/
theorem exec_withFracs_eq_next {i : Instr} {s t : State} (h : exec i s = .next t) {rot pos : Nat} (hrot : rot ≤ 23)
    (hpos : pos ≤ 23) : exec i (s.withFracs rot pos) = .next (t.withFracs rot pos) := by
  obtain ⟨u, hu, hu'⟩ := exec_withFracs s rot pos i
  obtain ⟨hl, rfl⟩ := onBuild_eq_next_iff.mp (hu ▸ h)
  rw [hu', onBuild_of_legal (legal_withFracs hl hrot hpos)]

/-- Each of the three edges reads the same ports and writes the same registers. -/
theorem step_withFracs_eq_next {s t : State} (h : step s = .next t) {rot pos : Nat} (hrot : rot ≤ 23)
    (hpos : pos ≤ 23) : step (s.withFracs rot pos) = .next (t.withFracs rot pos) := by
  obtain ⟨hl, ⟨hr, rfl⟩ | ⟨hr, hv, u, hu, rfl⟩ | ⟨hr, hv, rfl⟩⟩ := step_eq_next_cases h
  · rw [State.withFracs_advance, State.withFracs_resetEdge]
    exact step_of_rst (legal_withFracs hl hrot hpos) hr
  · rw [step_of_legal (legal_withFracs hl hrot hpos), State.withFracs_sample, if_neg (by simp [hr]), if_pos hv,
      State.withFracs_fetched, exec_withFracs_eq_next hu hrot hpos, thenAdvance_next, State.withFracs_advance]
  · rw [State.withFracs_advance, State.withFracs_idleEdge]
    exact step_of_idle (legal_withFracs hl hrot hpos) hr hv

/-- Settles O32: every operation is the same write in both builds, and so is each of the three edges. -/
theorem fractionalBitsChangeNoOutput : Obligations.FractionalBitsChangeNoOutput :=
  fun _ _ _ _ hrot hpos =>
    ⟨fun h => step_withFracs_eq_next h hrot hpos, fun _ h => exec_withFracs_eq_next h hrot hpos⟩

end Sys2Proof.Machine
end

section
/-! A VALID result and the raw frame beside it (41_field_extract.md R120). -/

namespace Sys2Proof.Machine

/-- Settles O35: a VALID result is the extracted fields of the frame, whose bytes `out_raw` carries. -/
theorem validResultRederivesFromRaw : Obligations.ValidResultRederivesFromRaw := by
  intro d s t r h hr hvalid
  obtain ⟨hl, rfl⟩ : s.cfg.legal = true ∧ s.updateRegs (fun _ => acceptedRegs s.cfg d) = t :=
    onBuild_eq_next_iff.mp h
  obtain ⟨_, -, rfl⟩ := Option.map_eq_some_iff.mp hr
  have hv : outcome s.cfg d = .valid := by rw [← hvalid, acceptedRegs_status, decodeFrame_eq]
  have hfields : (acceptedRegs s.cfg d).toFields = extractFields s.cfg d.frame := by rw [acceptedRegs_of_valid hv]
  have hraw : unpackFrame (acceptedRegs s.cfg d).raw = d.frame := by
    rw [hfields]
    exact unpackFrame_packFrame d.frame
  rw [hraw]
  exact hfields

end Sys2Proof.Machine
end

section
/-! The extractors (41_field_extract.md R101, R104, R106, R107; 20_memory.md R51): the signed value of EXT_SFIX24, its
bits, and the unsigned extractors as big-endian values. -/

namespace Sys2Proof.Machine

/-- A number over itself is one, whichever way it is made a rational. -/
theorem intCast_div_self {n : Nat} (h : 0 < n) : ((n : Int) : Rat) / (n : Rat) = 1 := by
  rw [Rat.intCast_natCast, Rat.div_def, Rat.mul_inv_cancel _ (Rat.ne_of_gt (Rat.natCast_pos.mpr h))]

/-- The register's signed value is that of the assembled pattern (41_field_extract.md R101). -/
theorem extSfix24_toInt {w : Nat} (h : 24 ≤ w) (b0 b1 b2 : Byte) (F : Nat) :
    (extSfix24 w b0 b1 b2 F).toInt = sint24 (uint24 b0 b1 b2) := sext24_toInt h _

/-- Bit 23 of the pattern is bit 7 of the first byte. -/
theorem uint24_msb (b0 b1 b2 : Byte) : (uint24 b0 b1 b2).msb = b0.getLsbD 7 := by
  rw [uint24, BitVec.msb_append, BitVec.msb_append]
  simp [BitVec.msb_eq_getLsbD_last]

theorem extSfix24_getLsbD_low {w : Nat} (h : 24 ≤ w) (b0 b1 b2 : Byte) (F : Nat) {i : Nat} (hi : i < 24) :
    (extSfix24 w b0 b1 b2 F).getLsbD i = (uint24 b0 b1 b2).getLsbD i := by
  rw [extSfix24, sext24, BitVec.getLsbD_signExtend, if_pos hi, decide_eq_true (Nat.lt_of_lt_of_le hi h), Bool.true_and]

/-- Above the pattern stand copies of the first byte's bit 7 (00_scope.md R12; 41_field_extract.md R101). -/
theorem extSfix24_getLsbD_high {w : Nat} (b0 b1 b2 : Byte) (F : Nat) {i : Nat} (hi : 24 ≤ i) (hw : i < w) :
    (extSfix24 w b0 b1 b2 F).getLsbD i = b0.getLsbD 7 := by
  rw [extSfix24, sext24, BitVec.getLsbD_signExtend, if_neg (by omega), decide_eq_true hw, Bool.true_and, uint24_msb]

/-- The first byte carries the sign, the others are unsigned (41_field_extract.md R104). -/
theorem sint24_uint24 (b0 b1 b2 : Byte) :
    sint24 (uint24 b0 b1 b2) = b0.toInt * 2 ^ 16 + b1.toNat * 2 ^ 8 + b2.toNat := by
  have h1 := b1.isLt
  have h2 := b2.isLt
  rw [sint24, uint24_toNat, BitVec.toInt_eq_toNat_cond]
  split <;> split <;> omega

/-- Settles O36: sign extension keeps the signed value and the 24 low bits, and copies bit 23 above them. -/
theorem sfix24IsTwosComplement : Obligations.Sfix24IsTwosComplement := by
  intro w F b0 b1 b2 hw _ _
  refine ⟨?_, fun i hi => ?_, fun i hi hiw => extSfix24_getLsbD_high b0 b1 b2 F hi hiw⟩
  · rw [extSfix24_toInt hw, sint24, uint24_toNat]
  · rw [extSfix24_getLsbD_low hw b0 b1 b2 F hi, ← BitVec.testBit_toNat, uint24_toNat]

/-- Settles O37: the value is linear in the signed first byte and the unsigned others, and the bytes 00 80 00 tell it
from the sum of signed bytes. -/
theorem signIsNotTakenByteByByte : Obligations.SignIsNotTakenByteByByte := by
  have hvalue : ∀ (w F : Nat) (b0 b1 b2 : Byte), 24 ≤ w → w ≤ 64 → F ≤ 23 →
      (extSfix24 w b0 b1 b2 F).toInt = b0.toInt * 2 ^ 16 + b1.toNat * 2 ^ 8 + b2.toNat :=
    fun w F b0 b1 b2 hw _ _ => (extSfix24_toInt hw b0 b1 b2 F).trans (sint24_uint24 b0 b1 b2)
  have hexample : (extSfix24 32 0x00 0x80 0x00 15).toInt = 32768 :=
    (hvalue 32 15 0x00 0x80 0x00 (by decide) (by decide) (by decide)).trans (by decide)
  refine ⟨hvalue, hexample, ?_, by decide⟩
  rw [fixVal, hexample]
  exact intCast_div_self (n := 32768) (by decide)

/-- Settles O41: each extractor is the value of its bytes written out, and so is the big-endian fold. -/
theorem unsignedExtractorsAreBigEndian : Obligations.UnsignedExtractorsAreBigEndian := by
  intro b0 b1 b2
  have h1 : uintBytes [b0] = b0.toNat := by simp [uintBytes]
  have h2 : uintBytes [b0, b1] = b0.toNat * 2 ^ 8 + b1.toNat := by simp [uintBytes]
  have h3 : uintBytes [b0, b1, b2] = b0.toNat * 2 ^ 16 + b1.toNat * 2 ^ 8 + b2.toNat := by
    simp only [uintBytes, List.foldl_cons, List.foldl_nil]
    omega
  rw [h1, h2, h3, extU8_eq, extU16_toNat, uint24_toNat]
  exact ⟨rfl, rfl, rfl, rfl, rfl⟩

end Sys2Proof.Machine
end

section
/-! The numbers that a fixed-point register stands for (41_field_extract.md R102) and their encoder (R121): both range
over `m / 2^F` with `m` a signed 24-bit integer. -/

namespace Sys2Proof.Machine

/-- `m` is the signed value of some 24-bit pattern. -/
def InSint24 (m : Int) : Prop := -2 ^ 23 ≤ m ∧ m ≤ 2 ^ 23 - 1

theorem inSint24_sint24 (u : Word24) : InSint24 (sint24 u) := by
  have hu := u.isLt
  unfold InSint24 sint24
  split <;> omega

/-- Reducing a signed 24-bit integer modulo 2^24 and reading it signed gives it back (41_field_extract.md R121). -/
theorem sint24_ofInt {m : Int} (h : InSint24 m) : sint24 (BitVec.ofInt 24 m) = m := by
  obtain ⟨hlo, hhi⟩ := h
  rw [sint24_eq_toInt]
  exact BitVec.toInt_ofInt_eq_self (by decide) (by omega) (by omega)

theorem fixVal_extSfix24 {w : Nat} (h : 24 ≤ w) (b0 b1 b2 : Byte) (F : Nat) :
    fixVal F (extSfix24 w b0 b1 b2 F) = (sint24 (uint24 b0 b1 b2) : Rat) / (2 ^ F : Nat) := by
  rw [fixVal, extSfix24_toInt h]

/-- The values of three bytes are those of the signed 24-bit integers. -/
theorem exists_fixVal_extSfix24_iff {w F : Nat} (h : 24 ≤ w) {v : Rat} :
    (∃ b0 b1 b2 : Byte, fixVal F (extSfix24 w b0 b1 b2 F) = v) ↔
      ∃ m : Int, v = (m : Rat) / (2 ^ F : Nat) ∧ InSint24 m := by
  constructor
  · rintro ⟨b0, b1, b2, rfl⟩
    exact ⟨_, fixVal_extSfix24 h b0 b1 b2 F, inSint24_sint24 _⟩
  · rintro ⟨m, rfl, hm⟩
    refine ⟨highByte (.ofInt 24 m), midByte (.ofInt 24 m), lowByte (.ofInt 24 m), ?_⟩
    rw [fixVal_extSfix24 h, uint24_bytes, sint24_ofInt hm]

theorem two_pow_cast_pos (F : Nat) : (0 : Rat) < (2 ^ F : Nat) := Rat.natCast_pos.mpr (Nat.two_pow_pos F)

theorem two_pow_cast_ne_zero (F : Nat) : ((2 ^ F : Nat) : Rat) ≠ 0 := Rat.ne_of_gt (two_pow_cast_pos F)

/-- Scaling by `2^F` keeps the order of the integers. -/
theorem div_two_pow_le_iff (F : Nat) (m k : Int) :
    (m : Rat) / (2 ^ F : Nat) ≤ (k : Rat) / (2 ^ F : Nat) ↔ m ≤ k := by
  rw [← Rat.not_lt, Rat.div_lt_iff (two_pow_cast_pos F), Rat.div_mul_cancel (two_pow_cast_ne_zero F), Rat.not_lt,
    Rat.intCast_le_intCast]

theorem two_pow_sub_eq_div {F : Nat} (hF : F ≤ 23) :
    ((2 ^ (23 - F) : Nat) : Rat) = ((2 ^ 23 : Int) : Rat) / (2 ^ F : Nat) := by
  have hpow : ((2 ^ (23 - F) : Nat) : Rat) * (2 ^ F : Nat) = ((2 ^ 23 : Int) : Rat) := by
    rw [← Rat.natCast_mul, ← Nat.pow_add, Nat.sub_add_cancel hF]
    exact (Rat.intCast_natCast (2 ^ 23)).symm
  rw [← hpow, Rat.mul_div_cancel (two_pow_cast_ne_zero F)]

/-- The least value is that of the integer `-2^23`. -/
theorem neg_two_pow_sub_eq_div {F : Nat} (hF : F ≤ 23) :
    -((2 ^ (23 - F) : Nat) : Rat) = ((-2 ^ 23 : Int) : Rat) / (2 ^ F : Nat) := by
  rw [two_pow_sub_eq_div hF, Rat.div_def, Rat.div_def, ← Rat.neg_mul, ← Rat.intCast_neg]

/-- The greatest value is that of the integer `2^23 - 1`. -/
theorem two_pow_sub_sub_eq_div {F : Nat} (hF : F ≤ 23) :
    ((2 ^ (23 - F) : Nat) : Rat) - 1 / (2 ^ F : Nat) = ((2 ^ 23 - 1 : Int) : Rat) / (2 ^ F : Nat) := by
  rw [two_pow_sub_eq_div hF, Rat.div_def, Rat.div_def, Rat.div_def, Rat.sub_eq_add_neg, ← Rat.neg_mul, ← Rat.add_mul,
    ← Rat.sub_eq_add_neg, Rat.intCast_sub, Rat.intCast_one]

/-- The bounds of 41_field_extract.md R102 are those of a signed 24-bit integer, scaled by `2^F`. -/
theorem inSint24_iff_scaled {F : Nat} (hF : F ≤ 23) (m : Int) :
    InSint24 m ↔ -((2 ^ (23 - F) : Nat) : Rat) ≤ (m : Rat) / (2 ^ F : Nat) ∧
      (m : Rat) / (2 ^ F : Nat) ≤ ((2 ^ (23 - F) : Nat) : Rat) - 1 / (2 ^ F : Nat) := by
  rw [neg_two_pow_sub_eq_div hF, two_pow_sub_sub_eq_div hF, div_two_pow_le_iff, div_two_pow_le_iff, InSint24]

/-- A rational of denominator 1 is its numerator. -/
theorem intCast_num_of_den_eq_one {q : Rat} (h : q.den = 1) : (q.num : Rat) = q :=
  Rat.ext (Rat.num_intCast _) ((Rat.den_intCast _).trans h.symm)

/-- ENC_SFIX24 answers on the signed 24-bit integers over `2^F`, and with the integer modulo 2^24. -/
theorem encSfix24_eq_some_iff {F : Nat} {v : Rat} {u : Word24} :
    encSfix24 F v = some u ↔ ∃ m : Int, v = (m : Rat) / (2 ^ F : Nat) ∧ InSint24 m ∧ u = BitVec.ofInt 24 m := by
  have hne := two_pow_cast_ne_zero F
  simp only [encSfix24, Option.ite_none_right_eq_some, Option.some.injEq]
  constructor
  · rintro ⟨⟨hden, hlo, hhi⟩, rfl⟩
    exact ⟨_, by rw [intCast_num_of_den_eq_one hden, Rat.mul_div_cancel hne], ⟨hlo, hhi⟩, rfl⟩
  · rintro ⟨m, rfl, ⟨hlo, hhi⟩, rfl⟩
    rw [Rat.div_mul_cancel hne, Rat.num_intCast, Rat.den_intCast]
    exact ⟨⟨rfl, hlo, hhi⟩, rfl⟩

/-- Settles O38: three bytes stand for the signed 24-bit integers over `2^F`, and the bounds are theirs. -/
theorem fixedPointValueRange : Obligations.FixedPointValueRange := by
  intro w F v hw _ hF
  rw [exists_fixVal_extSfix24_iff hw]
  constructor
  · rintro ⟨m, rfl, hm⟩
    exact ⟨⟨m, rfl⟩, (inSint24_iff_scaled hF m).mp hm⟩
  · rintro ⟨⟨m, rfl⟩, hm⟩
    exact ⟨m, rfl, (inSint24_iff_scaled hF m).mpr hm⟩

/-- Settles O39: the encoder's word is `m` modulo 2^24, whose three bytes are read back as `m`. -/
theorem fixedPointRoundTrip : Obligations.FixedPointRoundTrip := by
  intro w F hw _ _
  refine ⟨fun v u hu => ?_, fun m hlo hhi => encSfix24_eq_some_iff.mpr ⟨m, rfl, ⟨hlo, hhi⟩, rfl⟩⟩
  obtain ⟨m, rfl, hm, rfl⟩ := encSfix24_eq_some_iff.mp hu
  rw [fixVal_extSfix24 hw, uint24_bytes, sint24_ofInt hm]

end Sys2Proof.Machine
end

section
/-! The checksum (42_checksum.md R132 to R135, R139, R140): the verdict as one residue of the byte sum, what the two
masks see of it, how a flipped bit moves it, and CSUM_CHECK on a frame that fails. -/

namespace Sys2Proof.Machine

/-! ## The closed form -/

theorem sum_map_toNat_le (l : List Byte) : (l.map BitVec.toNat).sum ≤ l.length * 255 := by
  induction l with
  | nil => exact Nat.le_refl 0
  | cons b l ih =>
    have hb := b.isLt
    simp only [List.map_cons, List.sum_cons, List.length_cons]
    omega

/-- The byte sum of 29 bytes (42_checksum.md R132). -/
theorem byteSum_le (f : Frame) : byteSum f ≤ 7395 := by
  have hsum := sum_map_toNat_le f.toList
  rwa [Vector.length_toList] at hsum

/-- The two legal masks as `2^k - 1`: one step subtracts modulo `2^k` (42_checksum.md R132). -/
theorem csumStep_eq_emod_two_pow {mask : Byte} {k : Nat} (hk : k = 2 ∨ k = 8) (hmask : mask.toNat = 2 ^ k - 1)
    (a b : Byte) : ((csumStep mask a b).toNat : Int) = ((a.toNat : Int) - b.toNat) % 2 ^ k := by
  rcases hk with rfl | rfl
  · have hm : mask = 0x03 := BitVec.eq_of_toNat_eq hmask
    rw [hm]
    exact csumStep_default a b
  · have hm : mask = 0xFF := BitVec.eq_of_toNat_eq hmask
    rw [hm]
    exact csumStep_fullByte a b

section ClosedForm

variable {c : Config} {k : Nat} (hk : k = 2 ∨ k = 8) (hmask : c.csumMask.toNat = 2 ^ k - 1)
include hk hmask

theorem csumAcc_eq_emod_two_pow (f : Frame) :
    ((csumAcc c f).toNat : Int) = ((c.csumInit.toNat : Int) - byteSum f) % 2 ^ k :=
  csumAcc_eq_emod (csumStep_eq_emod_two_pow hk hmask) f

/-- The verdict compares two residues (42_checksum.md R132). -/
theorem csumOk_iff_mod_two_pow (f : Frame) :
    csumOk c f = true ↔ byteSum f % 2 ^ k = c.csumInit.toNat % 2 ^ k := by
  have hacc := csumAcc_eq_emod_two_pow hk hmask f
  rw [csumOk_eq_true_iff, ← BitVec.toNat_inj]
  rcases hk with rfl | rfl
  all_goals
    simp only [BitVec.ofNat_eq_ofNat, BitVec.toNat_ofNat]
    omega

end ClosedForm

/-- The default mode compares the two low bits (42_checksum.md R133). -/
theorem csumOk_default_iff {c : Config} (hmask : c.csumMask = 0x03) (f : Frame) :
    csumOk c f = true ↔ byteSum f % 4 = c.csumInit.toNat % 4 :=
  csumOk_iff_mod_two_pow (k := 2) (.inl rfl) (by rw [hmask]; rfl) f

/-- The full-byte mode compares all eight bits (42_checksum.md R134). -/
theorem csumOk_fullByte_iff {c : Config} (hmask : c.csumMask = 0xFF) (f : Frame) :
    csumOk c f = true ↔ byteSum f % 256 = c.csumInit.toNat := by
  have hmod : csumOk c f = true ↔ byteSum f % 256 = c.csumInit.toNat % 256 :=
    csumOk_iff_mod_two_pow (k := 8) (.inr rfl) (by rw [hmask]; rfl) f
  rwa [Nat.mod_eq_of_lt (b := 256) c.csumInit.isLt] at hmod

/-- What passes in the full-byte mode passes in the default mode of the same start value (42_checksum.md R134). -/
theorem csumOk_default_of_fullByte {c c' : Config} {f : Frame} (h : csumOk c' f = true) (hmask' : c'.csumMask = 0xFF)
    (hmask : c.csumMask = 0x03) (hinit : c.csumInit = c'.csumInit) : csumOk c f = true := by
  rw [csumOk_fullByte_iff hmask'] at h
  rw [csumOk_default_iff hmask, hinit, ← h]
  omega

/-- Settles O43: each step subtracts modulo `2^k`, so the accumulator is one residue of the byte sum. -/
theorem checksumClosedForm : Obligations.ChecksumClosedForm :=
  fun _ f _ hk hmask => ⟨byteSum_le f, csumAcc_eq_emod_two_pow hk hmask f, csumOk_iff_mod_two_pow hk hmask f⟩

/-! ## The two modes -/

/-- Frame D of 95_test_vectors.md: frame A with `B[25] = D9`, which moves its byte sum by 4. -/
def frameOffByFour : Frame :=
  #v[0xD1, 0x01, 0x05, 0x00, 0x00, 0x0A, 0x00, 0x00, 0x0F, 0x00, 0x00, 0x00, 0xFA, 0x00, 0x01, 0xF4, 0x00, 0x02, 0xEE,
    0x00, 0x12, 0x34, 0x56, 0x00, 0x00, 0xD9, 0x00, 0x00, 0x00]

theorem byteSum_frameOffByFour : byteSum frameOffByFour = 0x544 := by decide

/-- Settles O44: `0x40` is 0 modulo 4 and itself modulo 256; the byte sum `0x544` of frame D agrees with it in the two
low bits only. -/
theorem checksumModes : Obligations.ChecksumModes := by
  refine ⟨fun c f hmask hinit => ?_, fun c f hmask hinit => ?_, fun f h => ?_, frameOffByFour, ?_, ?_⟩
  · rw [csumOk_default_iff hmask, hinit]
    rfl
  · rw [csumOk_fullByte_iff hmask, hinit]
    rfl
  · exact csumOk_default_of_fullByte h rfl rfl rfl
  · rw [csumOk_default_iff rfl, byteSum_frameOffByFour]
    rfl
  · rw [Bool.eq_false_iff, ne_eq, csumOk_fullByte_iff rfl, byteSum_frameOffByFour]
    decide

/-! ## A flipped bit -/

/-- Setting a clear bit adds its weight. -/
theorem toNat_xor_twoPow_of_clear {w j : Nat} {x : BitVec w} (hj : j < w) (hx : x.getLsbD j = false) :
    (x ^^^ BitVec.twoPow w j).toNat = x.toNat + 2 ^ j := by
  have hand : x &&& BitVec.twoPow w j = 0#w := by rw [BitVec.and_twoPow, hx]; rfl
  have hxor : x ^^^ BitVec.twoPow w j = x + BitVec.twoPow w j := by
    rw [BitVec.add_eq_or_of_and_eq_zero _ _ hand]
    apply BitVec.eq_of_getLsbD_eq
    intro i _
    by_cases hij : j = i
    · subst hij
      simp [hx]
    · simp [BitVec.getLsbD_twoPow, hij]
  rw [hxor, BitVec.toNat_add_of_and_eq_zero hand, BitVec.toNat_twoPow_of_lt hj]

/-- A flipped bit adds its weight or takes it away; in the second case the flip back adds it. -/
theorem toNat_xor_twoPow {w j : Nat} (x : BitVec w) (hj : j < w) :
    (x ^^^ BitVec.twoPow w j).toNat = x.toNat + 2 ^ j ∨ (x ^^^ BitVec.twoPow w j).toNat + 2 ^ j = x.toNat := by
  cases hx : x.getLsbD j with
  | false => exact .inl (toNat_xor_twoPow_of_clear hj hx)
  | true =>
    have hclear : (x ^^^ BitVec.twoPow w j).getLsbD j = false := by
      simp [hx, hj]
    have hback := toNat_xor_twoPow_of_clear hj hclear
    rw [BitVec.xor_assoc, BitVec.xor_self, BitVec.xor_zero] at hback
    exact .inr hback.symm

/-- The frame with bit `j` of byte `i` flipped. -/
def flipBit (f : Frame) (i j : Nat) (hi : i < 29) : Frame := f.set i (f[i] ^^^ BitVec.twoPow 8 j) hi

/-- A flipped bit moves the byte sum by its weight (42_checksum.md R135). -/
theorem byteSum_flipBit (f : Frame) {i j : Nat} (hi : i < 29) (hj : j < 8) :
    byteSum (flipBit f i j hi) = byteSum f + 2 ^ j ∨ byteSum (flipBit f i j hi) + 2 ^ j = byteSum f := by
  have hset : byteSum (flipBit f i j hi) + f[i].toNat = byteSum f + (f[i] ^^^ BitVec.twoPow 8 j).toNat :=
    byteSum_set f i _ hi
  rcases toNat_xor_twoPow f[i] hj with hadd | hsub
  · exact .inl (by omega)
  · exact .inr (by omega)

/-- The weight of bit 0 or 1 is 1 or 2, which is not 0 modulo 4 (42_checksum.md R135). -/
theorem csumOk_flipBit_low {c : Config} (hmask : c.csumMask = 0x03) {f : Frame} {i j : Nat} (hi : i < 29) (hj : j < 2)
    (h : csumOk c f = true) : csumOk c (flipBit f i j hi) = false := by
  have hflip := byteSum_flipBit f hi (Nat.lt_trans hj (by decide : 2 < 8))
  have hpos := Nat.two_pow_pos j
  have hlt : 2 ^ j < 2 ^ 2 := Nat.pow_lt_pow_right (by decide) hj
  rw [csumOk_default_iff hmask] at h
  rw [Bool.eq_false_iff, ne_eq, csumOk_default_iff hmask]
  omega

/-- The weight of a bit from 2 to 7 is 0 modulo 4 (42_checksum.md R135). -/
theorem csumOk_flipBit_high {c : Config} (hmask : c.csumMask = 0x03) (f : Frame) {i j : Nat} (hi : i < 29) (h2 : 2 ≤ j)
    (hj : j < 8) : csumOk c (flipBit f i j hi) = csumOk c f := by
  have hflip := byteSum_flipBit f hi hj
  have hdvd : 2 ^ 2 ∣ 2 ^ j := Nat.pow_dvd_pow 2 h2
  rw [Bool.eq_iff_iff, csumOk_default_iff hmask, csumOk_default_iff hmask]
  omega

/-- The weight of a byte's bit is not 0 modulo 256 (42_checksum.md R135). -/
theorem csumOk_flipBit_fullByte {c : Config} (hmask : c.csumMask = 0xFF) {f : Frame} {i j : Nat} (hi : i < 29)
    (hj : j < 8) (h : csumOk c f = true) : csumOk c (flipBit f i j hi) = false := by
  have hflip := byteSum_flipBit f hi hj
  have hpos := Nat.two_pow_pos j
  have hlt : 2 ^ j < 2 ^ 8 := Nat.pow_lt_pow_right (by decide) hj
  rw [csumOk_fullByte_iff hmask] at h
  rw [Bool.eq_false_iff, ne_eq, csumOk_fullByte_iff hmask]
  omega

/-- Settles O45: the flip moves the byte sum by `2^j`, and each mode sees that weight modulo 4 or modulo 256. -/
theorem singleBitFlipDetection : Obligations.SingleBitFlipDetection := by
  intro c f i j hi hj
  refine ⟨?_, fun hmask hlow h => csumOk_flipBit_low hmask hi hlow h,
    fun hmask hhigh => csumOk_flipBit_high hmask f hi hhigh hj,
    fun hmask h => csumOk_flipBit_fullByte hmask hi hj h⟩
  change (byteSum (flipBit f i j hi) : Int) = _ ∨ (byteSum (flipBit f i j hi) : Int) = _
  have hcast : ((2 ^ j : Nat) : Int) = 2 ^ j := Int.natCast_pow 2 j
  rcases byteSum_flipBit f hi hj with hadd | hsub
  · exact .inl (by omega)
  · exact .inr (by omega)

/-! ## The automatic byte -/

theorem autoChecksum_toNat (c : Config) (f : Frame) :
    (autoChecksum c f).toNat =
      (((c.csumInit.toNat : Int) - ((byteSum f : Int) - (f[25].toNat : Int))) % 256).toNat :=
  BitVec.toNat_ofInt ..

/-- Settles O46: the automatic byte brings the byte sum to `CSUM_INIT` modulo 256, so the frame passes in the full-byte
mode and therefore in the default mode. -/
theorem autoChecksumPassesBothModes : Obligations.AutoChecksumPassesBothModes := by
  intro c f
  have hsum := byteSum_set_autoChecksum c f
  have hfull : csumOk { c with csumMask := 0xFF } (f.set 25 (autoChecksum c f)) = true :=
    (csumOk_fullByte_iff rfl _).mpr hsum
  exact ⟨autoChecksum_toNat c f, hsum, csumOk_default_of_fullByte hfull rfl rfl rfl, hfull⟩

/-! ## CSUM_CHECK on a frame that fails it -/

/-- CSUM_CHECK ends a frame that passed both gates and fails the checksum (42_checksum.md R130). -/
theorem exec_csumCheck_of_bad_checksum {s : State} {d : Delivery} (hl : s.cfg.legal = true)
    (hr : recognised s.cfg d = true) (hn : lengthOk s.cfg d = true) (hc : csumOk s.cfg d.frame = false) :
    exec (.csumCheck d) s = .next (s.report .checksumInvalid) := by
  change execCsumCheck d s = _
  rw [execCsumCheck, onBuild_of_legal hl, if_pos (by rw [hr, hn]; rfl), if_neg (Bool.eq_false_iff.mp hc)]

/-- Settles O4: the frame passes both gates and fails the checksum, so CSUM_CHECK reports a failure, which zeroes every
field. -/
theorem csumCheckDiscardsFailingFrame : Obligations.CsumCheckDiscardsFailingFrame := by
  intro d s r hl hs h0 hlen hacc
  have hr : recognised s.cfg d = true := recognised_eq_true_iff.mpr ⟨by omega, h0⟩
  have hn : lengthOk s.cfg d = true := lengthOk_eq_true_iff.mpr (hlen.trans (frameLen_of_legal hl).symm)
  rw [exec_csumCheck_of_bad_checksum hl hr hn (csumOk_eq_false_iff.mpr hacc), State.report_of_some hs (by decide)]

end Sys2Proof.Machine
end

section
/-! DECODE_D1 as one operation (43_frame_decode.md R150 to R157): the registers it leaves under each outcome, and what an
acceptance cycle and an idle edge make of the registers. -/

namespace Sys2Proof.Machine

section FailingOutcomes

variable {c : Config} {d : Delivery}

theorem outcome_of_not_recognised (hr : recognised c d = false) : outcome c d = .notRecognized := by
  rw [outcome, hr]
  rfl

theorem outcome_of_bad_length (hr : recognised c d = true) (hn : lengthOk c d = false) :
    outcome c d = .badLength := by
  rw [outcome, hr, hn]
  rfl

theorem outcome_of_bad_checksum (hr : recognised c d = true) (hn : lengthOk c d = true)
    (hc : csumOk c d.frame = false) : outcome c d = .checksumInvalid := by
  rw [outcome, hr, hn, hc]
  rfl

/-- No byte of a rejected frame reaches a register (43_frame_decode.md R152). -/
theorem acceptedRegs_of_ne_valid (h : outcome c d ≠ .valid) :
    acceptedRegs c d = { toFields := Fields.zero c.outW, valid := true, status := outcome c d } := by
  rw [acceptedRegs, decodeFrame_eq, if_neg h]

end FailingOutcomes

section DecodeD1

variable {s : State} {r : Regs s.cfg.outW} (hl : s.cfg.legal = true) (hs : s.regs = some r) {d : Delivery}
include hl hs

/-- DECODE_D1 on a frame that fails a check: the status code alone distinguishes the three failures. -/
theorem exec_decodeD1_of_failure {st : Status} (ho : outcome s.cfg d = st) (hst : st ≠ .valid) :
    exec (.decodeD1 d) s = .next (s.withRegs
      { toFields := Fields.zero s.cfg.outW, valid := true, status := st }) := by
  subst ho
  rw [exec_decodeD1_of_legal hl, State.updateRegs_of_some hs, acceptedRegs_of_ne_valid hst]

/-- DECODE_D1 on a frame that passes every check. -/
theorem exec_decodeD1_of_valid (ho : outcome s.cfg d = .valid) :
    exec (.decodeD1 d) s = .next (s.withRegs
      { toFields := extractFields s.cfg d.frame, valid := true, status := .valid }) := by
  rw [exec_decodeD1_of_legal hl, State.updateRegs_of_some hs, acceptedRegs_of_valid ho]

end DecodeD1

/-- Settles O30: the register set is the edge function's on the accepted sample, which reads neither the registers nor
the rest of the state. -/
theorem resultDependsOnlyOnItsFrame : Obligations.ResultDependsOnlyOnItsFrame := by
  intro c p hl ha
  refine ⟨acceptedRegs c p.delivery, fun ps n r => ?_⟩
  have hnext : nextRegs c p (some r) = some (acceptedRegs c p.delivery) := nextRegs_of_accepted ha (some r)
  exact step_of_nextRegs_some (s := ⟨c, p :: ps, n, some r⟩) hl rfl hnext

/-- Settles O1: each case of the evaluation order fixes the outcome, and the outcome fixes the registers. -/
theorem decodeD1ReportsOutcomeAndFields : Obligations.DecodeD1ReportsOutcomeAndFields := by
  intro d s r hl hs
  have hlen : s.cfg.frameLen = 29 := frameLen_of_legal hl
  have hpass : d.frame[0] = s.cfg.syncByte → d.len = 29 → recognised s.cfg d = true ∧ lengthOk s.cfg d = true :=
    fun h0 h29 => ⟨recognised_eq_true_iff.mpr ⟨by omega, h0⟩, lengthOk_eq_true_iff.mpr (h29.trans hlen.symm)⟩
  refine ⟨fun hsync => ?_, fun h1 h0 hne => ?_, fun h0 h29 hacc => ?_, fun h0 h29 hacc => ?_⟩
  · exact exec_decodeD1_of_failure hl hs (outcome_of_not_recognised (recognised_eq_false_iff.mpr hsync)) (by decide)
  · have hr : recognised s.cfg d = true := recognised_eq_true_iff.mpr ⟨h1, h0⟩
    have hn : lengthOk s.cfg d = false := lengthOk_eq_false_iff.mpr (hlen ▸ hne)
    exact exec_decodeD1_of_failure hl hs (outcome_of_bad_length hr hn) (by decide)
  · obtain ⟨hr, hn⟩ := hpass h0 h29
    have hc : csumOk s.cfg d.frame = false := csumOk_eq_false_iff.mpr hacc
    exact exec_decodeD1_of_failure hl hs (outcome_of_bad_checksum hr hn hc) (by decide)
  · obtain ⟨hr, hn⟩ := hpass h0 h29
    have hc : csumOk s.cfg d.frame = true := csumOk_eq_true_iff.mpr hacc
    exact exec_decodeD1_of_valid hl hs (outcome_eq_valid_iff.mpr ⟨hr, hn, hc⟩)

/-- Settles O18: the edge function on an idle sample clears `out_valid` and holds the rest. -/
theorem idleEdgeHoldsTheRegisters : Obligations.IdleEdgeHoldsTheRegisters := by
  intro s r hl hs hrst hvalid
  have hnext : nextRegs s.cfg s.sample (some r) = some { r with valid := false } :=
    nextRegs_of_idle hrst hvalid (some r)
  exact step_of_nextRegs_some hl hs hnext

end Sys2Proof.Machine
end

section
/-! The consumer's side of an edge (60_exceptions.md R181, R182): which edges leave a record, which outcomes are errors. -/

namespace Sys2Proof.Machine

/-- A step from registers that hold values leaves registers that hold values, the edge function's. -/
theorem exists_nextRegs_of_step {s t : State} {r : Regs s.cfg.outW} (hs : s.regs = some r) (h : step s = .next t) :
    ∃ r', nextRegs s.cfg s.sample (some r) = some r' ∧ t = s.advance.withRegs r' := by
  have hnext := nextRegs_some (p := s.sample) r
  have hstep := step_of_nextRegs_some (legal_of_step h) hs hnext
  exact ⟨_, hnext, Host.Outcome.next.inj (h.symm.trans hstep)⟩

theorem acceptedRegs_status_eq_outcome (c : Config) (d : Delivery) : (acceptedRegs c d).status = outcome c d := by
  rw [acceptedRegs_status, decodeFrame_eq]

/-- The registers show a VALID result right after an edge that accepted a VALID frame, and after no other: what an
earlier frame left in `out_status` does not count once `out_valid` is 0 (10_state.md R26). -/
theorem nextRegs_shows_valid_iff {c : Config} {p : PortSample c.lenW} {r r' : Regs c.outW}
    (h : nextRegs c p (some r) = some r') :
    (r'.valid = true ∧ r'.status = .valid) ↔ (p.accepted = true ∧ outcome c p.delivery = .valid) := by
  rw [(nextRegs_valid_iff_accepted h).1]
  refine and_congr_right fun ha => ?_
  rw [nextRegs_of_accepted ha] at h
  obtain rfl := Option.some.inj h
  rw [acceptedRegs_status_eq_outcome]

section Record

variable {s : State} {r : Regs s.cfg.outW}

theorem takeRecord_withRegs_of_valid (h : r.valid = true ∧ r.status = .valid) :
    takeRecord (s.withRegs r) = .ok (some r.toFields) :=
  congrArg Except.ok (if_pos h)

theorem takeRecord_withRegs_of_not_valid (h : ¬ (r.valid = true ∧ r.status = .valid)) :
    takeRecord (s.withRegs r) = .ok none :=
  congrArg Except.ok (if_neg h)

end Record

/-- The errors that R182 lists. -/
theorem Status.isError_eq_true_iff (st : Status) : st.isError = true ↔ st = .badLength ∨ st = .checksumInvalid := by
  cases st <;> decide

/-- Settles O53: the registers show a VALID result exactly after an edge that accepted a VALID frame, and then their
fields are that frame's. -/
theorem consumerRecordsOnlyValidFrames : Obligations.ConsumerRecordsOnlyValidFrames := by
  refine ⟨fun s t hs hstep => ?_, Status.isError_eq_true_iff⟩
  obtain ⟨r, hr⟩ := Option.isSome_iff_exists.mp hs
  obtain ⟨r', hnext, rfl⟩ := exists_nextRegs_of_step hr hstep
  refine ⟨fun ha hvalid => ?_, fun hnone => takeRecord_withRegs_of_not_valid fun hshown => ?_⟩
  · have hregs : acceptedRegs s.cfg s.sample.delivery = r' :=
      Option.some.inj ((nextRegs_of_accepted ha (some r)).symm.trans hnext)
    rw [acceptedRegs_of_valid (c := s.cfg) hvalid] at hregs
    subst hregs
    exact takeRecord_withRegs_of_valid ⟨rfl, rfl⟩
  · obtain ⟨ha, hvalid⟩ := (nextRegs_shows_valid_iff hnext).mp hshown
    obtain hna | hnv := hnone
    · exact Bool.false_ne_true (hna.symm.trans ha)
    · exact hnv hvalid

end Sys2Proof.Machine
end

section
/-! Reset edges next to acceptance cycles, and the parameters under reset (70_reset_and_hazards.md R190, R191, R193). -/

namespace Sys2Proof.Machine

/-- Settles O24: of the three edges, two write registers only and the acceptance cycle runs one operation, which writes
registers only too. -/
theorem buildNeverChanges : Obligations.BuildNeverChanges :=
  fun _ _ => ⟨cfg_of_step, fun _ => cfg_of_exec⟩

section ListedEdge

variable {c : Config} {p : PortSample c.lenW} (hl : c.legal = true) (ps : List (PortSample c.lenW)) (n : Nat)
include hl

/-- A listed reset edge: the frame it carries and the registers it finds, be they values or none, leave no trace. -/
theorem step_cons_of_rst (hr : p.rst = true) (r : Option (Regs c.outW)) :
    step ⟨c, p :: ps, n, r⟩ = .next ⟨c, ps, n + 1, some (Regs.reset c.outW)⟩ :=
  step_of_rst (s := ⟨c, p :: ps, n, r⟩) hl hr

/-- A listed acceptance cycle from registers that hold values. -/
theorem step_cons_of_accepted (ha : p.accepted = true) (r : Regs c.outW) :
    step ⟨c, p :: ps, n, some r⟩ = .next ⟨c, ps, n + 1, some (acceptedRegs c p.delivery)⟩ :=
  step_of_accepted (s := ⟨c, p :: ps, n, some r⟩) hl ha

end ListedEdge

/-- Settles O17: the reset edge of any state, then the two orders of one acceptance cycle and one reset edge. -/
theorem resetEdgeWinsOverAFrame : Obligations.ResetEdgeWinsOverAFrame := by
  refine ⟨fun s hl hr => step_of_rst hl hr, fun c p q ps n r hl hp hq => ⟨?_, ?_, ?_, ?_⟩⟩
  · exact step_cons_of_rst hl (p :: ps) n hq (some r)
  · exact step_cons_of_accepted hl ps (n + 1) hp (Regs.reset c.outW)
  · exact step_cons_of_accepted hl (q :: ps) n hp r
  · exact step_cons_of_rst hl ps (n + 1) hq (some (acceptedRegs c p.delivery))

end Sys2Proof.Machine
end

section
/-! The invariant of the output registers (43_frame_decode.md R152, R153, R158; 41_field_extract.md R120): each of the
three edges leaves coherent registers. -/

namespace Sys2Proof.Machine

section Coherent

variable {c : Config}

theorem coherent_reset (c : Config) : (Regs.reset c.outW).Coherent c :=
  ⟨fun h => (nomatch h), fun _ => rfl⟩

/-- Clearing `out_valid` leaves every register that the invariant speaks of. -/
theorem Regs.Coherent.clear_valid {r : Regs c.outW} (h : r.Coherent c) :
    Regs.Coherent c { r with valid := false } := h

/-- DECODE's result is coherent: a VALID frame is recognised, passes the checksum and is on `out_raw`; any other leaves
zero fields. -/
theorem coherent_acceptedRegs (c : Config) (d : Delivery) : (acceptedRegs c d).Coherent c := by
  by_cases hv : outcome c d = .valid
  · obtain ⟨hrec, -, hcsum⟩ := outcome_eq_valid_iff.mp hv
    have hraw : unpackFrame (extractFields c d.frame).raw = d.frame := unpackFrame_packFrame d.frame
    rw [acceptedRegs_of_valid hv, Regs.Coherent]
    dsimp only
    rw [hraw]
    exact ⟨fun _ => ⟨(recognised_eq_true_iff.mp hrec).2, hcsum, rfl⟩, fun h => absurd rfl h⟩
  · rw [acceptedRegs_of_ne_valid hv]
    exact ⟨fun h => absurd h hv, fun _ => rfl⟩

/-- The edge function keeps registers coherent, whichever edge it is and whether or not they hold values. -/
theorem coherent_nextRegs {p : PortSample c.lenW} {old : Option (Regs c.outW)} {r' : Regs c.outW}
    (hold : ∀ r, old = some r → r.Coherent c) (h : nextRegs c p old = some r') : r'.Coherent c := by
  obtain hr | ha | ⟨hr, hv⟩ := p.edge_cases
  · rw [nextRegs_of_rst hr] at h
    obtain rfl := Option.some.inj h
    exact coherent_reset c
  · rw [nextRegs_of_accepted ha] at h
    obtain ⟨_, -, rfl⟩ := Option.map_eq_some_iff.mp h
    exact coherent_acceptedRegs c p.delivery
  · rw [nextRegs_of_idle hr hv] at h
    obtain ⟨r, hs, rfl⟩ := Option.map_eq_some_iff.mp h
    exact (hold r hs).clear_valid

end Coherent

/-- Settles O33: the step applies the edge function in the same build, and the edge function keeps registers
coherent. -/
theorem everyStepKeepsOutputsCoherent : Obligations.EveryStepKeepsOutputsCoherent := by
  rintro s t ⟨hl, hcoh⟩ h
  rw [step_eq_nextRegs hl] at h
  obtain rfl := Host.Outcome.next.inj h
  exact ⟨hl, fun _ hr => coherent_nextRegs hcoh hr⟩

/-- Settles O34: the default build is legal and the reset values are coherent. -/
theorem resetOutputsAreCoherent : Obligations.ResetOutputsAreCoherent := by
  refine ⟨by decide, fun r hr => ?_⟩
  obtain rfl := Option.some.inj hr
  exact coherent_reset Config.fdx

end Sys2Proof.Machine
end

section
/-! Decoding and encoding are inverse up to the row that a shared word names (30_encoding.md R70, R71, R74; log 6). -/

namespace Sys2Proof

variable {c : Config} {d : Delivery}

theorem decodeDelivery_of_sync (h1 : 1 ≤ d.len) (h0 : d.frame[0] = c.syncByte) :
    decodeDelivery c d = .decodeD1 d := by
  obtain ⟨h, -⟩ | ⟨-, hlen | hne⟩ := decodeDelivery_cases c d
  · exact h
  · omega
  · exact absurd h0 hne

theorem decodeDelivery_of_not_sync (h : d.len = 0 ∨ d.frame[0] ≠ c.syncByte) :
    decodeDelivery c d = .syncCheck d := by
  obtain ⟨-, h1, h0⟩ | ⟨hd, -⟩ := decodeDelivery_cases c d
  · exact h.elim (fun hlen => by omega) (fun hne => absurd h0 hne)
  · exact hd

theorem selectsD1_eq_true_iff :
    d.selectsD1 c = true ↔ d.len < 2 ^ c.lenW ∧ 1 ≤ d.len ∧ d.frame[0] = c.syncByte := by
  simp [Delivery.selectsD1, Delivery.lenFits, Delivery.hasOpcode, Delivery.syncMatches, and_assoc]

/-- Every row that a recognised frame may name has the word of DECODE_D1 on that frame. -/
theorem decode_encode_of_selectsD1 {i : Instr} (h : i.delivery.selectsD1 c = true) :
    decode c (encode i).1 (encode i).2 = .decodeD1 i.delivery := by
  obtain ⟨-, h1, h0⟩ := selectsD1_eq_true_iff.mp h
  rw [decode_encode_eq, decodeDelivery_of_sync h1 h0]

/-- Settles O47: the encoded frame is read back whole, and its first byte, if it has one, selects between DECODE_D1 and
SYNC_CHECK. -/
theorem decodeInvertsEncode : Obligations.DecodeInvertsEncode := by
  intro c d i
  refine ⟨fun hwf => decode_encode_of_selectsD1 (i := .decodeD1 d) hwf, fun h => ?_,
    fun _ h => decode_encode_of_selectsD1 h⟩
  rw [decode_encode_eq]
  exact decodeDelivery_of_not_sync h

/-- The decoder answers an operation on the frame that it was given. -/
theorem decodeDelivery_delivery (c : Config) (d : Delivery) : (decodeDelivery c d).delivery = d := by
  obtain ⟨h, -⟩ | ⟨h, -⟩ := decodeDelivery_cases c d <;> rw [h] <;> rfl

theorem decodeDelivery_wellFormed (h : d.len < 2 ^ c.lenW) : (decodeDelivery c d).wellFormed c = true := by
  obtain ⟨hd, h1, h0⟩ | ⟨hd, -⟩ := decodeDelivery_cases c d <;> rw [hd]
  · exact selectsD1_eq_true_iff.mpr ⟨h, h1, h0⟩
  · exact decide_eq_true h

/-- Settles O48: the decoded operation carries the length and the lanes of the word, and packing the lanes gives the
word. -/
theorem encodeInvertsDecode : Obligations.EncodeInvertsDecode := by
  refine fun c len w => ⟨?_, fun hlen => decodeDelivery_wellFormed hlen⟩
  rw [decode, encode, decodeDelivery_delivery, packFrame_unpackFrame]

/-- Settles O50: the two closed words of 95_test_vectors.md are computed by the decoder. -/
theorem writtenFramesDecode : Obligations.WrittenFramesDecode := ⟨by decide, by decide⟩

/-! ## The rows that a leading byte selects -/

/-- A row that masks no bit away selects its pattern alone. -/
theorem selects_full_mask (pattern b : Byte) (make : Delivery → Instr) :
    OpcodeRow.selects ⟨0xFF#8, pattern, make⟩ b = decide (b = pattern) := by
  have hm : b &&& 0xFF#8 = b := BitVec.and_allOnes
  rw [OpcodeRow.selects, hm]
  rfl

/-- A row that masks every bit away selects every leading byte. -/
theorem selects_zero_mask (b : Byte) (make : Delivery → Instr) : OpcodeRow.selects ⟨0#8, 0#8, make⟩ b = true := by
  have hm : b &&& 0#8 = 0#8 := BitVec.and_zero
  rw [OpcodeRow.selects, hm]
  rfl

/-- Settles O51: SYNC_CHECK's row selects every byte, the fifteen others the sync byte alone. -/
theorem rowsSelectedByLeadingByte : Obligations.RowsSelectedByLeadingByte := by
  refine fun c d => ⟨fun h => ?_, fun h => ?_⟩
  all_goals simp [selectedOps, opcodeRows, selects_full_mask, selects_zero_mask, h]

end Sys2Proof
end

section
/-! Every operation as one write of the register set, and what the fifteen rows leave when they are performed in the
table's order on one frame (30_encoding.md R74; 43_frame_decode.md R150; logs 3 to 5). -/

namespace Sys2Proof.Machine

/-- What an operation makes of the registers; `exec_eq_onBuild_regWrite` ties it to `exec`. -/
def regWrite (c : Config) (i : Instr) (r : Regs c.outW) : Regs c.outW :=
  match i with
  | .decodeD1 d => acceptedRegs c d
  | .syncCheck d => if recognised c d then r else r.report .notRecognized
  | .lenCheck d => if recognised c d && !lengthOk c d then r.report .badLength else r
  | .csumCheck d =>
    if recognised c d && lengthOk c d then r.report (if csumOk c d.frame then .valid else .checksumInvalid) else r
  | .cameraId d => { r with cameraId := whenValid c d (extractFields c d.frame).cameraId }
  | .pan d => { r with pan := whenValid c d (extractFields c d.frame).pan }
  | .tilt d => { r with tilt := whenValid c d (extractFields c d.frame).tilt }
  | .roll d => { r with roll := whenValid c d (extractFields c d.frame).roll }
  | .posX d => { r with posX := whenValid c d (extractFields c d.frame).posX }
  | .posY d => { r with posY := whenValid c d (extractFields c d.frame).posY }
  | .posZ d => { r with posZ := whenValid c d (extractFields c d.frame).posZ }
  | .zoom d => { r with zoom := whenValid c d (extractFields c d.frame).zoom }
  | .focus d => { r with focus := whenValid c d (extractFields c d.frame).focus }
  | .spare d => { r with spare := whenValid c d (extractFields c d.frame).spare }
  | .checksum d => { r with checksum := whenValid c d (extractFields c d.frame).checksum }
  | .raw d => { r with raw := whenValid c d (extractFields c d.frame).raw }

/-- A write behind a condition is a state behind it. -/
theorem State.updateRegs_ite_else (s : State) (p : Prop) [Decidable p] (g : Regs s.cfg.outW → Regs s.cfg.outW) :
    (s.updateRegs fun r => if p then r else g r) = if p then s else s.updateRegs g := by
  split
  · exact s.updateRegs_id
  · rfl

/-- See `State.updateRegs_ite_else`. -/
theorem State.updateRegs_ite_then (s : State) (p : Prop) [Decidable p] (g : Regs s.cfg.outW → Regs s.cfg.outW) :
    (s.updateRegs fun r => if p then g r else r) = if p then s.updateRegs g else s := by
  split
  · rfl
  · exact s.updateRegs_id

/-- Every operation is a write of registers behind the guard on the build; a check that writes nothing writes the
registers it finds. -/
theorem exec_eq_onBuild_regWrite (i : Instr) (s : State) :
    exec i s = onBuild s (s.updateRegs (regWrite s.cfg i)) := by
  cases i with
  | syncCheck d => exact congrArg (onBuild s) (s.updateRegs_ite_else _ _).symm
  | lenCheck d => exact congrArg (onBuild s) (s.updateRegs_ite_then _ _).symm
  | csumCheck d => exact congrArg (onBuild s) (s.updateRegs_ite_then _ _).symm
  | _ => rfl

theorem exec_of_legal {s : State} (hl : s.cfg.legal = true) (i : Instr) :
    exec i s = .next (s.updateRegs (regWrite s.cfg i)) := by
  rw [exec_eq_onBuild_regWrite, onBuild_of_legal hl]

theorem exec_of_some {s : State} {r : Regs s.cfg.outW} (hl : s.cfg.legal = true) (hs : s.regs = some r) (i : Instr) :
    exec i s = .next (s.withRegs (regWrite s.cfg i r)) := by
  rw [exec_of_legal hl, State.updateRegs_of_some hs]

/-- Settles O25: an operation is a write of registers and an edge is the edge function, both total in a legal build. -/
theorem everyEdgeHasANextState : Obligations.EveryEdgeHasANextState :=
  fun _ hl => ⟨⟨_, step_eq_nextRegs hl⟩, fun i => ⟨_, exec_of_legal hl i⟩⟩

/-! ## Registers without a value -/

theorem nextRegs_none_of_not_rst {c : Config} {p : PortSample c.lenW} (hr : p.rst = false) :
    nextRegs c p none = none := by
  simp [nextRegs, hr]

/-- Settles O20: a write of registers that hold no value changes nothing, and the edge function gives them none unless
`rst` is 1. -/
theorem onlyResetGivesFirstValues : Obligations.OnlyResetGivesFirstValues := by
  refine fun s hl hs => ⟨fun i => ?_, fun hr => ?_⟩
  · rw [exec_of_legal hl, State.updateRegs_of_none hs]
  · have hkeep : nextRegs s.cfg s.sample s.regs = s.regs := by rw [hs, nextRegs_none_of_not_rst hr]
    rw [step_eq_nextRegs hl, hkeep]

/-! ## The fifteen rows in the table's order -/

theorem State.updateRegs_updateRegs (s : State) (g g' : Regs s.cfg.outW → Regs s.cfg.outW) :
    (s.updateRegs g).updateRegs g' = s.updateRegs (g' ∘ g) := by
  simp [State.updateRegs]

/-- What a list of operations makes of the registers, one after the other. -/
def regWrites (c : Config) (is : List Instr) (r : Regs c.outW) : Regs c.outW :=
  is.foldl (fun r i => regWrite c i r) r

theorem regWrites_append (c : Config) (is js : List Instr) (r : Regs c.outW) :
    regWrites c (is ++ js) r = regWrites c js (regWrites c is r) := List.foldl_append

/-- Operations performed one after the other are one write of registers. -/
theorem execAll_of_legal {s : State} (hl : s.cfg.legal = true) (is : List Instr) :
    execAll is s = .next (s.updateRegs (regWrites s.cfg is)) := by
  induction is generalizing s with
  | nil => exact congrArg Host.Outcome.next (State.updateRegs_id s).symm
  | cons i is ih =>
    have hrest := ih (s := s.updateRegs (regWrite s.cfg i)) hl
    simp only [execAll, exec_of_legal hl, hrest]
    exact congrArg Host.Outcome.next (State.updateRegs_updateRegs s _ _)

/-- The three checks of a frame, in the order of its evaluation (43_frame_decode.md R150). -/
def checkOperations (d : Delivery) : List Instr := [.syncCheck d, .lenCheck d, .csumCheck d]

/-- The twelve field operations, in the table's order (41_field_extract.md R100). -/
def fieldOperations (d : Delivery) : List Instr :=
  [.cameraId d, .pan d, .tilt d, .roll d, .posX d, .posY d, .posZ d, .zoom d, .focus d, .spare d, .checksum d, .raw d]

theorem subOperations_eq (d : Delivery) : subOperations d = checkOperations d ++ fieldOperations d := rfl

/-- The first check that fails ends the frame, and the last one reports VALID, so the three report the outcome. -/
theorem regWrites_checkOperations (c : Config) (d : Delivery) (r : Regs c.outW) :
    regWrites c (checkOperations d) r = r.report (outcome c d) := by
  obtain ⟨ho, hr⟩ | ⟨ho, hr, hn⟩ | ⟨ho, hr, hn, hc⟩ | ⟨ho, hr, hn, hc⟩ := outcome_cases c d
  · simp [regWrites, checkOperations, regWrite, ho, hr]
  · simp [regWrites, checkOperations, regWrite, ho, hr, lengthOk_eq_false_iff.mp hn]
  · simp [regWrites, checkOperations, regWrite, -csumOk_eq_true_iff, ho, hr, lengthOk_eq_true_iff.mp hn, hc]
  · simp [regWrites, checkOperations, regWrite, -csumOk_eq_true_iff, ho, hr, lengthOk_eq_true_iff.mp hn, hc]

theorem whenValid_of_ne_valid {c : Config} {d : Delivery} (h : outcome c d ≠ .valid) {n : Nat} (v : BitVec n) :
    whenValid c d v = 0 := if_neg h

/-- The field operations write every field register: DECODE's fields, whatever the registers held. -/
theorem regWrites_fieldOperations (c : Config) (d : Delivery) (r : Regs c.outW) :
    regWrites c (fieldOperations d) r =
      { toFields := (decodeFrame c d).2, valid := r.valid, status := r.status } := by
  rw [decodeFrame_eq]
  by_cases hv : outcome c d = .valid
  · simp only [regWrites, fieldOperations, regWrite, List.foldl_cons, List.foldl_nil, whenValid_of_valid hv, if_pos hv]
  · simp only [regWrites, fieldOperations, regWrite, List.foldl_cons, List.foldl_nil, whenValid_of_ne_valid hv,
      if_neg hv]
    rfl

/-- The checks set `out_valid` and the status, the field operations the fields: together DECODE's result. -/
theorem regWrites_subOperations (c : Config) (d : Delivery) (r : Regs c.outW) :
    regWrites c (subOperations d) r = acceptedRegs c d := by
  rw [subOperations_eq, regWrites_append, regWrites_checkOperations, regWrites_fieldOperations, acceptedRegs,
    Regs.report_valid, Regs.report_status, decodeFrame_eq]

/-- Settles O13: in a legal build both sides are one write of DECODE's result; an illegal one refuses the first row and
DECODE_D1 alike. -/
theorem subOperationsComposeToDecodeD1 : Obligations.SubOperationsComposeToDecodeD1 := by
  intro d s
  cases hl : s.cfg.legal with
  | false =>
    rw [subOperations, execAll, exec_of_illegal hl, exec_of_illegal hl]
  | true =>
    have hwrites : regWrites s.cfg (subOperations d) = fun _ => acceptedRegs s.cfg d :=
      funext fun r => regWrites_subOperations s.cfg d r
    rw [execAll_of_legal hl, exec_decodeD1_of_legal hl, hwrites]

/-! ## Rows on their own -/

/-- Settles O11: each operation is its write, and the gate of a frame that is not VALID is closed. -/
theorem fieldOperationsOnOtherFrames : Obligations.FieldOperationsOnOtherFrames := by
  intro d s r hl hs hv
  simp only [exec_of_some hl hs, regWrite, whenValid_of_ne_valid hv, and_self]

/-- Settles O5: the conditions of each clause decide the branch that the check takes; where it writes nothing, the
state is the one it found. -/
theorem checksThatPassOrAreNotReached : Obligations.ChecksThatPassOrAreNotReached := by
  intro d s r hl hs
  have hlen : s.cfg.frameLen = 29 := frameLen_of_legal hl
  have hkeep : s.withRegs r = s := State.with_regs_self hs
  have hpass : d.frame[0] = s.cfg.syncByte → d.len = 29 → recognised s.cfg d = true ∧ lengthOk s.cfg d = true :=
    fun h0 h29 => ⟨recognised_eq_true_iff.mpr ⟨by omega, h0⟩, lengthOk_eq_true_iff.mpr (h29.trans hlen.symm)⟩
  simp only [exec_of_some hl hs, regWrite]
  refine ⟨fun h1 h0 => ?_, fun h0 h29 => ?_, fun h0 h29 hacc => ?_, fun hsync => ?_, fun hgate => ?_⟩
  · rw [if_pos (recognised_eq_true_iff.mpr ⟨h1, h0⟩), hkeep]
  · obtain ⟨hr, hn⟩ := hpass h0 h29
    rw [if_neg (by simp [hn]), hkeep]
  · obtain ⟨hr, hn⟩ := hpass h0 h29
    rw [if_pos (by simp [hr, hn]), if_pos (csumOk_eq_true_iff.mpr hacc)]
    rfl
  · rw [if_neg (by simp [recognised_eq_false_iff.mpr hsync]), hkeep]
  · have hfails : (recognised s.cfg d && lengthOk s.cfg d) = false := by
      rw [Bool.and_eq_false_iff]
      obtain hne | hne := hgate
      · exact .inr (lengthOk_eq_false_iff.mpr (hlen ▸ hne))
      · exact .inl (recognised_eq_false_iff.mpr (.inr hne))
    rw [if_neg (by simp [hfails]), hkeep]

end Sys2Proof.Machine
end

section
/-! The outcome of a frame as a table (60_exceptions.md R170), and the states of the source's machine beside it
(40_recognition.md R95). -/

namespace Sys2Proof.Machine

section OutcomeRows

variable {c : Config} {d : Delivery}

theorem outcome_eq_notRecognized_iff : outcome c d = .notRecognized ↔ recognised c d = false := by
  unfold outcome
  cases recognised c d <;> cases lengthOk c d <;> cases csumOk c d.frame <;> decide

theorem outcome_eq_badLength_iff :
    outcome c d = .badLength ↔ recognised c d = true ∧ lengthOk c d = false := by
  unfold outcome
  cases recognised c d <;> cases lengthOk c d <;> cases csumOk c d.frame <;> decide

theorem outcome_eq_checksumInvalid_iff :
    outcome c d = .checksumInvalid ↔ recognised c d = true ∧ lengthOk c d = true ∧ csumOk c d.frame = false := by
  unfold outcome
  cases recognised c d <;> cases lengthOk c d <;> cases csumOk c d.frame <;> decide

/-- Both gates pass exactly for 29 bytes with the sync byte first: 29 bytes are not none. -/
theorem gates_pass_iff (hl : c.legal = true) :
    (recognised c d = true ∧ lengthOk c d = true) ↔ (d.frame[0] = c.syncByte ∧ d.len = 29) := by
  rw [recognised_eq_true_iff, lengthOk_eq_true_iff, frameLen_of_legal hl]
  exact ⟨fun ⟨⟨_, h0⟩, h29⟩ => ⟨h0, h29⟩, fun ⟨h0, h29⟩ => ⟨⟨by omega, h0⟩, h29⟩⟩

end OutcomeRows

/-- Settles O12: each outcome says which checks passed, and each check is a condition on the bytes. -/
theorem outcomeTable : Obligations.OutcomeTable := by
  intro c d hl
  refine ⟨outcome_eq_notRecognized_iff.trans recognised_eq_false_iff, ?_, ?_, ?_, rfl, rfl, rfl, rfl⟩
  · rw [outcome_eq_badLength_iff, recognised_eq_true_iff, lengthOk_eq_false_iff, frameLen_of_legal hl, and_assoc]
  · rw [outcome_eq_checksumInvalid_iff, csumOk_eq_false_iff, ← and_assoc, gates_pass_iff hl, and_assoc]
  · rw [outcome_eq_valid_iff, csumOk_eq_true_iff, ← and_assoc, gates_pass_iff hl, and_assoc]

/-- The states of the source's machine that end in an outcome (40_recognition.md R95; 90_conflicts.md C5). -/
def phasesOf : Status → List Phase
  | .notRecognized => [.awaitingSync, .invalid]
  | .badLength => [.awaitingSync, .decoding, .invalid]
  | .checksumInvalid => [.awaitingSync, .decoding, .invalid]
  | .valid => [.awaitingSync, .decoding, .valid]

/-- The source's machine branches on the same three checks in the same order. -/
theorem phases_eq_phasesOf (c : Config) (d : Delivery) : phases c d = phasesOf (outcome c d) := by
  unfold phases outcome
  cases recognised c d with
  | false => rfl
  | true =>
    cases lengthOk c d with
    | false => rfl
    | true => cases csumOk c d.frame <;> rfl

/-- Settles O54: the states are a function of the outcome, and only the two errors share one. -/
theorem sourceStatesEndAsOutcomes : Obligations.SourceStatesEndAsOutcomes := by
  intro c d
  rw [phases_eq_phasesOf]
  cases outcome c d <;> decide

end Sys2Proof.Machine
end

section
/-! Acceptance edges as operations on the presented frame, runs as folds of the edge function (10_state.md R33), and
the registers at power-up and right after reset (10_state.md R24, R32). -/

namespace Sys2Proof.Machine

/-- Settles O14: an acceptance edge runs the operation that the ports name, which is the decoded one. -/
theorem stepRunsTheDecodedOperation : Obligations.StepRunsTheDecodedOperation := by
  intro s hl hr hv
  have hstep : step s = thenAdvance (exec s.fetched s) := by
    rw [step_of_legal hl, if_neg (by simp [hr]), if_pos hv]
  refine ⟨hstep, fun t ht => ?_⟩
  have hfetched : exec s.fetched s = .next t := ht
  rw [hstep, hfetched]
  rfl

/-- Settles O15: whichever operation the frame selects, its write is DECODE_D1's. -/
theorem everyAcceptanceEdgePerformsDecodeD1 : Obligations.EveryAcceptanceEdgePerformsDecodeD1 := by
  intro s hl ha
  rw [step_of_accepted hl ha, exec_decodeD1_of_legal hl, thenAdvance_next]

/-- Settles O21: a reset edge does not read the registers, and the edge function takes values to values. -/
theorem oneResetEdgeInitialises : Obligations.OneResetEdgeInitialises := by
  refine ⟨fun c p ps hl hr => ⟨rfl, step_cons_of_rst hl ps 0 hr none⟩, fun s t hs hstep => ?_⟩
  obtain ⟨r, hr⟩ := Option.isSome_iff_exists.mp hs
  obtain ⟨r', -, rfl⟩ := exists_nextRegs_of_step hr hstep
  rfl

/-! ## Runs -/

/-- The state after one edge of a legal build. -/
def State.afterEdge (s : State) : State :=
  { s with
    inputs := s.inputs.tail
    cycle := s.cycle + 1
    regs := nextRegs s.cfg s.sample s.regs }

theorem step_eq_afterEdge {s : State} (hl : s.cfg.legal = true) : step s = .next s.afterEdge := step_eq_nextRegs hl

theorem State.after_zero (s : State) : s.after 0 = s := rfl

/-- `n + 1` edges are one edge and then `n`. -/
theorem State.after_succ (s : State) (n : Nat) : s.after (n + 1) = s.afterEdge.after n := by
  have hinputs : s.inputs.drop (n + 1) = s.inputs.tail.drop n := by rw [← List.drop_one, List.drop_drop, Nat.add_comm]
  have hcycle : s.cycle + (n + 1) = s.cycle + 1 + n := by omega
  simp only [State.after, State.samples_succ, hinputs, hcycle]
  rfl

/-- Settles O28: induction on the number of edges, each of them the edge function on the next sample. -/
theorem runFoldsTheEdgeFunction : Obligations.RunFoldsTheEdgeFunction := by
  intro s n hl
  induction n generalizing s with
  | zero => exact congrArg Host.Outcome.next s.after_zero.symm
  | succ n ih =>
    rw [core_run_succ (step_eq_afterEdge hl), State.after_succ]
    exact ih s.afterEdge hl

/-! ## The output ports -/

theorem readPort_of_some {s : State} {r : Regs s.cfg.outW} (hs : s.regs = some r) (p : OutPort) :
    readPort s p = .ok (r.port p) := by
  rw [readPort, hs]

theorem readPort_of_none {s : State} (hs : s.regs = none) (p : OutPort) :
    readPort s p = .error .portHoldsNoValue := by
  rw [readPort, hs]

/-- Settles O19: the three reads of a consumer look at the registers first. -/
theorem portReadsFaultBeforeReset : Obligations.PortReadsFaultBeforeReset :=
  fun s hs => ⟨readPort_of_none hs, by rw [takeResult, hs], by rw [takeRecord, hs]⟩

/-- A field port shows zero where every field register is zero. -/
theorem Regs.port_eq_zero {w : Nat} {r : Regs w} (h : r.toFields = Fields.zero w) {p : OutPort} (hv : p ≠ .outValid)
    (hs : p ≠ .outStatus) : r.port p = 0 := by
  obtain ⟨f, v, st⟩ := r
  obtain rfl : f = Fields.zero w := h
  cases p with
  | outValid => exact absurd rfl hv
  | outStatus => exact absurd rfl hs
  | _ => rfl

/-- Settles O22: the ports show the reset column of R24, in which every field is zero. -/
theorem portsAfterReset : Obligations.PortsAfterReset := by
  have hread : ∀ p, readPort State.reset p = .ok ((Regs.reset Config.fdx.outW).port p) := readPort_of_some rfl
  refine ⟨hread .outValid, hread .outStatus, fun p hv hs => ?_⟩
  rw [hread, Regs.port_eq_zero Regs.reset_fields hv hs]
  rfl

end Sys2Proof.Machine
end

section
/-! Fixed-point values as floating-point numbers (41_field_extract.md R103; log 11), and the bytes that reach no field
but their own (30_encoding.md R67, R72). -/

namespace Sys2Proof.Machine

/-- A rational over a power of two, as the floating-point formats write it. -/
theorem div_two_pow_eq_mul_zpow (q : Rat) (F : Nat) : q / (2 ^ F : Nat) = q * (2 : Rat) ^ (-(F : Int)) := by
  rw [Rat.zpow_neg, Rat.zpow_natCast, Rat.div_def, Rat.natCast_pow]
  rfl

/-- A signed 24-bit integer over `2^F` is its own significand, wherever 24 bits and the exponent `-F` fit. -/
theorem representableIn_of_inSint24 {p F : Nat} {eMin eMax m : Int} (hm : InSint24 m) (hp : 24 ≤ p)
    (hmin : eMin ≤ -(F : Int)) (hmax : -(F : Int) ≤ eMax) :
    RepresentableIn p eMin eMax ((m : Rat) / (2 ^ F : Nat)) := by
  obtain ⟨hlo, hhi⟩ := hm
  have hbits : m.natAbs < 2 ^ 24 := by omega
  have hpow : 2 ^ 24 ≤ 2 ^ p := Nat.pow_le_pow_right (by decide) hp
  exact ⟨m, -(F : Int), Nat.lt_of_lt_of_le hbits hpow, hmin, hmax, div_two_pow_eq_mul_zpow m F⟩

/-- Settles O40: the value is a signed 24-bit integer over `2^F`, and both formats have 24 significand bits and the
exponents from -23 to 0. -/
theorem valuesAreExactFloats : Obligations.ValuesAreExactFloats := by
  intro w F b0 b1 b2 hw _ hF
  have hm : InSint24 (sint24 (uint24 b0 b1 b2)) := inSint24_sint24 _
  rw [fixVal_extSfix24 hw]
  exact ⟨representableIn_of_inSint24 hm (by omega) (by omega) (by omega),
    representableIn_of_inSint24 hm (by omega) (by omega) (by omega)⟩

/-- Every field but the spare bytes and `out_raw` is assembled from bytes 1 to 22 and 25 (30_encoding.md R66). -/
theorem extractFields_of_bytes_eq (c : Config) {f f' : Frame}
    (h : ∀ (j : Nat) (hj : j < 29), j < 23 ∨ j = 25 → f'[j] = f[j]) :
    extractFields c f' = { extractFields c f with spare := extU16 f'[23] f'[24], raw := packFrame f' } := by
  simp [extractFields, h]

/-- Settles O42: a write at one index leaves the bytes at the others, so a spare byte reaches none of the bytes that the
other fields read, and a trailing byte not the spare field either. -/
theorem spareAndTrailingBytesReachNoOtherField : Obligations.SpareAndTrailingBytesReachNoOtherField := by
  intro c f b
  refine ⟨fun i h hlo => ?_, fun i h hlo hhi => ?_⟩
  · have hkeep : ∀ (j : Nat) (hj : j < 29), j < 26 → (f.set i b h)[j] = f[j] := fun j hj hlt =>
      Vector.getElem_set_ne h hj (by omega)
    rw [extractFields_of_bytes_eq c fun j hj hread => hkeep j hj (by omega), hkeep 23 (by decide) (by decide),
      hkeep 24 (by decide) (by decide)]
    rfl
  · exact extractFields_of_bytes_eq c fun j hj hread => Vector.getElem_set_ne h hj (by omega)

end Sys2Proof.Machine
end

section
/-! The framer's duties (60_exceptions.md R181): what a delivery looks like at the ports, and what FDX makes of it. -/

namespace Sys2Proof.Machine

section Presented

variable (lenW : Nat) (bytes : List Byte) (unused : Frame)

theorem presentBytes_accepted : (presentBytes lenW bytes unused).accepted = true := rfl

/-- The length saturates at the greatest value of the port. -/
theorem saturatedLen_toNat (delivered : Nat) : (saturatedLen lenW delivered).toNat = min delivered (2 ^ lenW - 1) := by
  have hpos := Nat.two_pow_pos lenW
  rw [saturatedLen, BitVec.toNat_ofNat]
  exact Nat.mod_eq_of_lt (by omega)

theorem presentBytes_delivery_len :
    (presentBytes lenW bytes unused).delivery.len = min bytes.length (2 ^ lenW - 1) :=
  saturatedLen_toNat lenW bytes.length

/-- A lane carries the delivered byte where there is one. -/
theorem presentBytes_delivery_getElem (i : Nat) (h : i < 29) :
    (presentBytes lenW bytes unused).delivery.frame[i] = bytes[i]?.getD unused[i] := by
  change (unpackFrame (packFrame _))[i] = _
  rw [unpackFrame_packFrame, Vector.getElem_ofFn]
  rfl

/-- 29 delivered bytes fill the lanes (60_exceptions.md R181). -/
theorem presentBytes_delivery_toList (h : bytes.length = 29) :
    (presentBytes lenW bytes unused).delivery.frame.toList = bytes := by
  apply List.ext_getElem
  · rw [Vector.length_toList, h]
  · intro i hi hi'
    rw [Vector.getElem_toList, presentBytes_delivery_getElem, List.getElem?_eq_getElem hi', Option.getD_some]

end Presented

section Framer

variable {c : Config} {bytes : List Byte} {unused : Frame}

/-- `in_len` is at least 5 bits wide, so it tells an empty delivery from one byte, and 29 bytes from any other number
(00_scope.md R9). -/
theorem two_pow_lenW_ge (hl : c.legal = true) : 32 ≤ 2 ^ c.lenW := by
  obtain ⟨-, -, -, -, -, -, hw, -⟩ := legal_eq_true_iff.mp hl
  exact Nat.pow_le_pow_right (n := 2) (by decide) hw

/-- FDX recognises the presented frame exactly when the delivery starts with the sync byte: the unused lanes do not
count. -/
theorem recognised_presentBytes_iff (hl : c.legal = true) :
    recognised c (presentBytes c.lenW bytes unused).delivery = true ↔ bytes.head? = some c.syncByte := by
  have hw := two_pow_lenW_ge hl
  rw [recognised_eq_true_iff, presentBytes_delivery_len, presentBytes_delivery_getElem]
  cases bytes with
  | nil => simp
  | cons b bs =>
    have hone : 1 ≤ min (b :: bs).length (2 ^ c.lenW - 1) := by
      rw [List.length_cons]
      omega
    rw [and_iff_right hone]
    simp

/-- A wrong length stays wrong when it saturates (40_recognition.md R92). -/
theorem presentBytes_delivery_len_eq_29_iff (hl : c.legal = true) :
    (presentBytes c.lenW bytes unused).delivery.len = 29 ↔ bytes.length = 29 := by
  have hw := two_pow_lenW_ge hl
  rw [presentBytes_delivery_len]
  omega

/-- An edge on a presented delivery that fails a check. -/
theorem step_presentBytes_of_failure (hl : c.legal = true) (ps : List (PortSample c.lenW)) (n : Nat) (r : Regs c.outW)
    {st : Status} (ho : outcome c (presentBytes c.lenW bytes unused).delivery = st) (hst : st ≠ .valid) :
    step ⟨c, presentBytes c.lenW bytes unused :: ps, n, some r⟩ =
      .next ⟨c, ps, n + 1, some { toFields := Fields.zero c.outW, valid := true, status := st }⟩ := by
  subst ho
  rw [step_cons_of_accepted hl ps n (presentBytes_accepted ..) r, acceptedRegs_of_ne_valid hst]

end Framer

/-- Settles O52: the delivery's first byte decides the first gate and its length, saturated or not, the second. -/
theorem framerSaturationKeepsWrongLengthsWrong : Obligations.FramerSaturationKeepsWrongLengthsWrong := by
  intro c bytes unused ps n r hl
  refine ⟨fun hhead => ?_, fun hhead hlen => ?_, fun hlen => ?_⟩
  · have hr : recognised c (presentBytes c.lenW bytes unused).delivery = false :=
      Bool.eq_false_iff.mpr fun h => hhead ((recognised_presentBytes_iff hl).mp h)
    exact step_presentBytes_of_failure hl ps n r (outcome_of_not_recognised hr) (by decide)
  · have hr : recognised c (presentBytes c.lenW bytes unused).delivery = true :=
      (recognised_presentBytes_iff hl).mpr hhead
    have hn : lengthOk c (presentBytes c.lenW bytes unused).delivery = false := by
      rw [lengthOk_eq_false_iff, frameLen_of_legal hl]
      exact fun h => hlen ((presentBytes_delivery_len_eq_29_iff hl).mp h)
    exact step_presentBytes_of_failure hl ps n r (outcome_of_bad_length hr hn) (by decide)
  · exact ⟨(presentBytes_delivery_len_eq_29_iff hl).mpr hlen,
      presentBytes_delivery_toList c.lenW bytes unused hlen⟩

end Sys2Proof.Machine
end
